-- ==== Sys2Proof/Word.lean ====
section
/-! DEFINITION. The widths of the machine's values (spec rules R4, R6, R40, R63): bytes, 16-bit words,
12-bit addresses and 4-bit fields. All of them are unsigned and wrap at their width (rule R120). -/

namespace Sys2Proof

/-- A memory cell, a general register, a timer, the immediate `nn` (rules R10, R16, R40, R63). -/
abbrev Byte := BitVec 8

/-- An opcode, the program counter, the index register, a return address (rules R12, R13, R14, R60). -/
abbrev Word := BitVec 16

/-- A memory address, 0x000 to 0xFFF, and the immediate `nnn` (rules R40, R63). -/
abbrev Addr := BitVec 12

/-- A 4-bit field of an opcode (rule R61); as `n` it is the number of rows of a sprite. -/
abbrev Nibble := BitVec 4

/-- A register number, 0x0 to 0xF: always a 4-bit field, so every number is in range (rule R10). -/
abbrev Reg := BitVec 4

end Sys2Proof
end

