-- ==== Sys2Proof/Syntax.lean ====
section
/-! DEFINITION. The instructions: one constructor per row of `spec/opcode_table.json` (rule R64), in the
table's order. The docstring of a constructor gives the pattern and the assembler spelling of its row. -/

namespace Sys2Proof

/-- The 33 instructions of rule R64. Operand fields have exactly the width rule R61 gives them. -/
inductive Instr where
  /-- `00E0`, CLS. -/
  | cls
  /-- `00EE`, RET. -/
  | ret
  /-- `1nnn`, JP nnn. -/
  | jp (nnn : Addr)
  /-- `2nnn`, CALL nnn. -/
  | call (nnn : Addr)
  /-- `3xnn`, SE Vx, nn. -/
  | seVxNn (x : Reg) (nn : Byte)
  /-- `4xnn`, SNE Vx, nn. -/
  | sneVxNn (x : Reg) (nn : Byte)
  /-- `5xy0`, SE Vx, Vy. -/
  | seVxVy (x y : Reg)
  /-- `6xnn`, LD Vx, nn. -/
  | ldVxNn (x : Reg) (nn : Byte)
  /-- `7xnn`, ADD Vx, nn. -/
  | addVxNn (x : Reg) (nn : Byte)
  /-- `8xy0`, LD Vx, Vy. -/
  | ldVxVy (x y : Reg)
  /-- `8xy1`, OR Vx, Vy. -/
  | or (x y : Reg)
  /-- `8xy2`, AND Vx, Vy. -/
  | and (x y : Reg)
  /-- `8xy3`, XOR Vx, Vy. -/
  | xor (x y : Reg)
  /-- `8xy4`, ADD Vx, Vy. -/
  | addVxVy (x y : Reg)
  /-- `8xy5`, SUB Vx, Vy. -/
  | sub (x y : Reg)
  /-- `8xy6`, SHR Vx. The field y is decoded and has no effect (rule R67). -/
  | shr (x y : Reg)
  /-- `8xy7`, SUBN Vx, Vy. -/
  | subn (x y : Reg)
  /-- `8xyE`, SHL Vx. The field y is decoded and has no effect (rule R67). -/
  | shl (x y : Reg)
  /-- `9xy0`, SNE Vx, Vy. -/
  | sneVxVy (x y : Reg)
  /-- `Annn`, LD I, nnn. -/
  | ldINnn (nnn : Addr)
  /-- `Cxnn`, RND Vx, nn. -/
  | rnd (x : Reg) (nn : Byte)
  /-- `Dxyn`, DRW Vx, Vy, n. -/
  | drw (x y : Reg) (n : Nibble)
  /-- `Ex9E`, SKP Vx. -/
  | skp (x : Reg)
  /-- `ExA1`, SKNP Vx. -/
  | sknp (x : Reg)
  /-- `Fx07`, LD Vx, DT. -/
  | ldVxDt (x : Reg)
  /-- `Fx0A`, LD Vx, K. -/
  | ldVxK (x : Reg)
  /-- `Fx15`, LD DT, Vx. -/
  | ldDtVx (x : Reg)
  /-- `Fx18`, LD ST, Vx. -/
  | ldStVx (x : Reg)
  /-- `Fx1E`, ADD I, Vx. -/
  | addIVx (x : Reg)
  /-- `Fx29`, LD F, Vx. -/
  | ldFVx (x : Reg)
  /-- `Fx33`, LD B, Vx. -/
  | ldBVx (x : Reg)
  /-- `Fx55`, LD [I], Vx. -/
  | ldMiVx (x : Reg)
  /-- `Fx65`, LD Vx, [I]. -/
  | ldVxMi (x : Reg)
  deriving DecidableEq, Repr

end Sys2Proof
end

