-- ==== Sys2Proof/WellFormed.lean ====
section
/-! DEFINITION. What is a well-formed instruction. On words: the opcode map of rule R64 as a table of
mask and match, and the check that a word is one of the 33 patterns; its ill-formed terms are the
seven classes of illegal words of rule R66. On `Instr`: the row of the map a constructor stands for;
the operand bounds of rules R61 and R63 are held by the operands' types, so no term of `Instr` has an
operand out of range and no other check is left to make. -/

namespace Sys2Proof

/-- One row of the opcode map: the word `w` is of this row when `w &&& mask = pat` (rule R64). -/
structure MapRow where
  mask : Word
  pat : Word
  deriving DecidableEq, Repr

/-- The word is of this row (rule R64: `match` equals `op & mask`). -/
def MapRow.matches (r : MapRow) (w : Word) : Bool := w &&& r.mask == r.pat

/-- The row of rule R64 that a constructor stands for. -/
def Instr.row : Instr → MapRow
  | .cls => ⟨0xFFFF, 0x00E0⟩
  | .ret => ⟨0xFFFF, 0x00EE⟩
  | .jp _ => ⟨0xF000, 0x1000⟩
  | .call _ => ⟨0xF000, 0x2000⟩
  | .seVxNn _ _ => ⟨0xF000, 0x3000⟩
  | .sneVxNn _ _ => ⟨0xF000, 0x4000⟩
  | .seVxVy _ _ => ⟨0xF00F, 0x5000⟩
  | .ldVxNn _ _ => ⟨0xF000, 0x6000⟩
  | .addVxNn _ _ => ⟨0xF000, 0x7000⟩
  | .ldVxVy _ _ => ⟨0xF00F, 0x8000⟩
  | .or _ _ => ⟨0xF00F, 0x8001⟩
  | .and _ _ => ⟨0xF00F, 0x8002⟩
  | .xor _ _ => ⟨0xF00F, 0x8003⟩
  | .addVxVy _ _ => ⟨0xF00F, 0x8004⟩
  | .sub _ _ => ⟨0xF00F, 0x8005⟩
  | .shr _ _ => ⟨0xF00F, 0x8006⟩
  | .subn _ _ => ⟨0xF00F, 0x8007⟩
  | .shl _ _ => ⟨0xF00F, 0x800E⟩
  | .sneVxVy _ _ => ⟨0xF00F, 0x9000⟩
  | .ldINnn _ => ⟨0xF000, 0xA000⟩
  | .rnd _ _ => ⟨0xF000, 0xC000⟩
  | .drw _ _ _ => ⟨0xF000, 0xD000⟩
  | .skp _ => ⟨0xF0FF, 0xE09E⟩
  | .sknp _ => ⟨0xF0FF, 0xE0A1⟩
  | .ldVxDt _ => ⟨0xF0FF, 0xF007⟩
  | .ldVxK _ => ⟨0xF0FF, 0xF00A⟩
  | .ldDtVx _ => ⟨0xF0FF, 0xF015⟩
  | .ldStVx _ => ⟨0xF0FF, 0xF018⟩
  | .addIVx _ => ⟨0xF0FF, 0xF01E⟩
  | .ldFVx _ => ⟨0xF0FF, 0xF029⟩
  | .ldBVx _ => ⟨0xF0FF, 0xF033⟩
  | .ldMiVx _ => ⟨0xF0FF, 0xF055⟩
  | .ldVxMi _ => ⟨0xF0FF, 0xF065⟩

/-- The rows with first nibble 0 to 7 (rule R64). -/
def mapRowsLow : List MapRow :=
  [⟨0xFFFF, 0x00E0⟩, ⟨0xFFFF, 0x00EE⟩, ⟨0xF000, 0x1000⟩, ⟨0xF000, 0x2000⟩, ⟨0xF000, 0x3000⟩,
   ⟨0xF000, 0x4000⟩, ⟨0xF00F, 0x5000⟩, ⟨0xF000, 0x6000⟩, ⟨0xF000, 0x7000⟩]

/-- The rows with first nibble 8 and 9 (rule R64). -/
def mapRowsAlu : List MapRow :=
  [⟨0xF00F, 0x8000⟩, ⟨0xF00F, 0x8001⟩, ⟨0xF00F, 0x8002⟩, ⟨0xF00F, 0x8003⟩, ⟨0xF00F, 0x8004⟩,
   ⟨0xF00F, 0x8005⟩, ⟨0xF00F, 0x8006⟩, ⟨0xF00F, 0x8007⟩, ⟨0xF00F, 0x800E⟩, ⟨0xF00F, 0x9000⟩]

/-- The rows with first nibble A to F (rule R64). -/
def mapRowsHigh : List MapRow :=
  [⟨0xF000, 0xA000⟩, ⟨0xF000, 0xC000⟩, ⟨0xF000, 0xD000⟩, ⟨0xF0FF, 0xE09E⟩, ⟨0xF0FF, 0xE0A1⟩,
   ⟨0xF0FF, 0xF007⟩, ⟨0xF0FF, 0xF00A⟩, ⟨0xF0FF, 0xF015⟩, ⟨0xF0FF, 0xF018⟩, ⟨0xF0FF, 0xF01E⟩,
   ⟨0xF0FF, 0xF029⟩, ⟨0xF0FF, 0xF033⟩, ⟨0xF0FF, 0xF055⟩, ⟨0xF0FF, 0xF065⟩]

/-- The opcode map of rule R64: its 33 rows in the table's order. -/
def opcodeMap : List MapRow := mapRowsLow ++ (mapRowsAlu ++ mapRowsHigh)

/-- The word is one of the 33 patterns of rule R64; every other word is illegal (rule R66). -/
def wellFormedWord (w : Word) : Bool := opcodeMap.any fun r => r.matches w

/-- The constructor stands for a row of the opcode map (rule R64). -/
def Instr.wellFormed (i : Instr) : Bool := opcodeMap.contains i.row

end Sys2Proof
end

