-- ==== Sys2Proof/Decode.lean ====
section
/-! DEFINITION. Fields, decoder and encoder of the 16-bit instruction word (rules R60 to R68), and the
byte order in which a word stands in memory (rule R44). -/

namespace Sys2Proof

/-! ## Byte order -/

/-- The word whose high byte stands at the lower address (rule R44, big-endian). -/
def wordOfBytes (hi lo : Byte) : Word := hi ++ lo

/-- The byte of a word that stands at the lower address (rule R44). -/
def highByte (w : Word) : Byte := w.extractLsb' 8 8

/-- The byte of a word that stands at the higher address (rule R44). -/
def lowByte (w : Word) : Byte := w.extractLsb' 0 8

/-! ## Fields (rule R61) -/

/-- `n1`, bits 15:12: the major opcode. -/
def opN1 (op : Word) : Nibble := op.extractLsb' 12 4

/-- `x`, bits 11:8: a register number. -/
def opX (op : Word) : Reg := op.extractLsb' 8 4

/-- `y`, bits 7:4: a register number. -/
def opY (op : Word) : Reg := op.extractLsb' 4 4

/-- `n`, bits 3:0: the minor opcode, or the height of a sprite. -/
def opN (op : Word) : Nibble := op.extractLsb' 0 4

/-- `nn`, bits 7:0: an 8-bit immediate, or the minor opcode. -/
def opNN (op : Word) : Byte := op.extractLsb' 0 8

/-- `nnn`, bits 11:0: a 12-bit address. -/
def opNNN (op : Word) : Addr := op.extractLsb' 0 12

/-! ## Decoding (rule R65) -/

/-- The seven classes of illegal words, (a) to (g) of rule R66. -/
inductive IllegalWord where
  /-- (a) `0nnn` other than `00E0` and `00EE`. -/
  | family0
  /-- (b) `5xyn` with n not 0. -/
  | family5
  /-- (c) `8xyn` with n one of 8, 9, A, B, C, D, F. -/
  | family8
  /-- (d) `9xyn` with n not 0. -/
  | family9
  /-- (e) every `Bnnn`. -/
  | familyB
  /-- (f) `Exnn` with nn neither 9E nor A1. -/
  | familyE
  /-- (g) `Fxnn` with nn not one of the nine functions. -/
  | familyF
  deriving DecidableEq, Repr

/-- Why bytes are no instruction. -/
inductive DecodeReject where
  /-- Fewer than the two bytes every instruction has (rule R60). -/
  | truncated
  /-- An illegal word, with its class in rule R66. -/
  | illegal (c : IllegalWord)
  deriving DecidableEq, Repr

/-- Family 0: two whole words are legal, every other is not (rule R65). -/
def decodeFamily0 (op : Word) : Except DecodeReject Instr :=
  if op = 0x00E0#16 then .ok .cls
  else if op = 0x00EE#16 then .ok .ret
  else .error (.illegal .family0)

/-- Family 8: the minor opcode is the low nibble (rule R65). -/
def decodeFamily8 (x y : Reg) (n : Nibble) : Except DecodeReject Instr :=
  if n = 0x0#4 then .ok (.ldVxVy x y)
  else if n = 0x1#4 then .ok (.or x y)
  else if n = 0x2#4 then .ok (.and x y)
  else if n = 0x3#4 then .ok (.xor x y)
  else if n = 0x4#4 then .ok (.addVxVy x y)
  else if n = 0x5#4 then .ok (.sub x y)
  else if n = 0x6#4 then .ok (.shr x y)
  else if n = 0x7#4 then .ok (.subn x y)
  else if n = 0xE#4 then .ok (.shl x y)
  else .error (.illegal .family8)

/-- Family E: the minor opcode is the low byte (rule R65). -/
def decodeFamilyE (x : Reg) (nn : Byte) : Except DecodeReject Instr :=
  if nn = 0x9E#8 then .ok (.skp x)
  else if nn = 0xA1#8 then .ok (.sknp x)
  else .error (.illegal .familyE)

/-- Family F: the minor opcode is the low byte (rule R65). -/
def decodeFamilyF (x : Reg) (nn : Byte) : Except DecodeReject Instr :=
  if nn = 0x07#8 then .ok (.ldVxDt x)
  else if nn = 0x0A#8 then .ok (.ldVxK x)
  else if nn = 0x15#8 then .ok (.ldDtVx x)
  else if nn = 0x18#8 then .ok (.ldStVx x)
  else if nn = 0x1E#8 then .ok (.addIVx x)
  else if nn = 0x29#8 then .ok (.ldFVx x)
  else if nn = 0x33#8 then .ok (.ldBVx x)
  else if nn = 0x55#8 then .ok (.ldMiVx x)
  else if nn = 0x65#8 then .ok (.ldVxMi x)
  else .error (.illegal .familyF)

/-- The decode procedure of rule R65: total on all 65536 words, illegal words refused by their class. -/
def decodeWord (op : Word) : Except DecodeReject Instr :=
  let n1 := opN1 op
  if n1 = 0x0#4 then decodeFamily0 op
  else if n1 = 0x1#4 then .ok (.jp (opNNN op))
  else if n1 = 0x2#4 then .ok (.call (opNNN op))
  else if n1 = 0x3#4 then .ok (.seVxNn (opX op) (opNN op))
  else if n1 = 0x4#4 then .ok (.sneVxNn (opX op) (opNN op))
  else if n1 = 0x5#4 then
    if opN op = 0x0#4 then .ok (.seVxVy (opX op) (opY op)) else .error (.illegal .family5)
  else if n1 = 0x6#4 then .ok (.ldVxNn (opX op) (opNN op))
  else if n1 = 0x7#4 then .ok (.addVxNn (opX op) (opNN op))
  else if n1 = 0x8#4 then decodeFamily8 (opX op) (opY op) (opN op)
  else if n1 = 0x9#4 then
    if opN op = 0x0#4 then .ok (.sneVxVy (opX op) (opY op)) else .error (.illegal .family9)
  else if n1 = 0xA#4 then .ok (.ldINnn (opNNN op))
  else if n1 = 0xB#4 then .error (.illegal .familyB)
  else if n1 = 0xC#4 then .ok (.rnd (opX op) (opNN op))
  else if n1 = 0xD#4 then .ok (.drw (opX op) (opY op) (opN op))
  else if n1 = 0xE#4 then decodeFamilyE (opX op) (opNN op)
  else decodeFamilyF (opX op) (opNN op)

/-- Decoding of any bytes: the first two are the word (rules R44, R60); the rest of the bytes comes back. -/
def decode : List Byte → Except DecodeReject (Instr × List Byte)
  | hi :: lo :: rest =>
    match decodeWord (wordOfBytes hi lo) with
    | .ok i => .ok (i, rest)
    | .error e => .error e
  | _ => .error .truncated

/-! ## Encoding (rules R62, R64) -/

/-- Format A: the major opcode and a 12-bit address. -/
def packA (n1 : Nibble) (nnn : Addr) : Word := n1 ++ nnn

/-- Formats I and X: the major opcode, a register and an 8-bit immediate or function. -/
def packI (n1 : Nibble) (x : Reg) (nn : Byte) : Word := n1 ++ (x ++ nn)

/-- Format R: the major opcode, two registers and a low nibble. -/
def packR (n1 : Nibble) (x y : Reg) (n : Nibble) : Word := n1 ++ (x ++ (y ++ n))

/-- The word of an instruction (rules R62, R64). -/
def encode : Instr → Word
  | .cls => 0x00E0#16
  | .ret => 0x00EE#16
  | .jp nnn => packA 0x1#4 nnn
  | .call nnn => packA 0x2#4 nnn
  | .seVxNn x nn => packI 0x3#4 x nn
  | .sneVxNn x nn => packI 0x4#4 x nn
  | .seVxVy x y => packR 0x5#4 x y 0x0#4
  | .ldVxNn x nn => packI 0x6#4 x nn
  | .addVxNn x nn => packI 0x7#4 x nn
  | .ldVxVy x y => packR 0x8#4 x y 0x0#4
  | .or x y => packR 0x8#4 x y 0x1#4
  | .and x y => packR 0x8#4 x y 0x2#4
  | .xor x y => packR 0x8#4 x y 0x3#4
  | .addVxVy x y => packR 0x8#4 x y 0x4#4
  | .sub x y => packR 0x8#4 x y 0x5#4
  | .shr x y => packR 0x8#4 x y 0x6#4
  | .subn x y => packR 0x8#4 x y 0x7#4
  | .shl x y => packR 0x8#4 x y 0xE#4
  | .sneVxVy x y => packR 0x9#4 x y 0x0#4
  | .ldINnn nnn => packA 0xA#4 nnn
  | .rnd x nn => packI 0xC#4 x nn
  | .drw x y n => packR 0xD#4 x y n
  | .skp x => packI 0xE#4 x 0x9E#8
  | .sknp x => packI 0xE#4 x 0xA1#8
  | .ldVxDt x => packI 0xF#4 x 0x07#8
  | .ldVxK x => packI 0xF#4 x 0x0A#8
  | .ldDtVx x => packI 0xF#4 x 0x15#8
  | .ldStVx x => packI 0xF#4 x 0x18#8
  | .addIVx x => packI 0xF#4 x 0x1E#8
  | .ldFVx x => packI 0xF#4 x 0x29#8
  | .ldBVx x => packI 0xF#4 x 0x33#8
  | .ldMiVx x => packI 0xF#4 x 0x55#8
  | .ldVxMi x => packI 0xF#4 x 0x65#8

/-- The bytes of an instruction in address order (rules R44, R60). -/
def encodeBytes (i : Instr) : List Byte := [highByte (encode i), lowByte (encode i)]

/-! ## The opcode table's numbering of bits -/

/-- The word of `nbits` bits that `spec/opcode_table.json` numbers `w`: an instruction is one 16-bit word
(rule R60), so bit 0 is the least significant bit of the word. Bits from `nbits` up are 0. -/
def tableWord (nbits w : Nat) : Word := BitVec.ofNat 16 (w % 2 ^ nbits)

/-- The instruction the decoder reads from the bytes of the table's word, as memory holds them. -/
def decodeTableWord (nbits w : Nat) : Option Instr :=
  match decode [highByte (tableWord nbits w), lowByte (tableWord nbits w)] with
  | .ok (i, _) => some i
  | .error _ => none

end Sys2Proof
end

