-- ==== Sys2Proof/Machine/Event.lean ====
section
/-! DEFINITION. The events of the environment (rule R25). -/

namespace Sys2Proof.Machine

/-- The six events of rule R25. The byte RND of a STEP is the free value `Config.rnd` (log entry 2). -/
inductive Event where
  /-- RESET (rule R190). -/
  | reset
  /-- LOAD(IMAGE) (rules R192, R193). -/
  | load (image : List Byte)
  /-- STEP (rule R80). -/
  | step
  /-- TICK (rule R175). -/
  | tick
  /-- KEYS(k) (rule R177). -/
  | keys (k : BitVec 16)
  /-- OBSERVE (rules R28, R178). -/
  | observe
  deriving DecidableEq, Repr, Inhabited

end Sys2Proof.Machine
end

