-- ==== Sys2Proof/Config.lean ====
section
/-! DEFINITION. What the spec leaves free for every run: free values, under no law. Rule R4 fixes every size of
the machine, so no size stands here. Of the four parameters of rule R5, RND and the environment's endless schedule
are here; FONT and the part of the schedule a run fixes beforehand are fields of State, and IMAGE is the argument of
the LOAD event. -/

namespace Sys2Proof.Config

/-- RND (rules R5, R105, R179; log entry 2): the random byte of the `k`-th execution of Cxnn. It has no
body, so a proof can use no value of it: a free value under no law. -/
opaque rnd : Nat → Byte

/-- The environment schedule (rules R5, R26; log entry 3): the `k`-th event the host chooses freely. It has no body,
so a proof can use no value of it, and what is proved holds for every endless interleaving of the events. A premise
about the host, such as that TICK keeps coming (rule R197), is a hypothesis about this constant. -/
opaque event : Nat → Machine.Event

end Sys2Proof.Config
end

