-- ==== Sys2Proof/Machine/State.lean ====
section
/-! DEFINITION. The machine's state as plain data (rules R10 to R30), its reset values (rule R29), the
events of the environment (rule R25), and the reasons a step can stop. -/

namespace Sys2Proof.Machine

/-- `FAULT.code` (rules R21, R160): the six values the 3-bit field takes; codes 6 and 7 are never
produced (U19 of `93_implementation_defined.md` allows this closed type). -/
inductive FaultCode where
  /-- 0: no fault, the core is running. -/
  | none
  /-- 1: the fetched word matches no pattern (rule R161). -/
  | illegalOpcode
  /-- 2: 2nnn on a full stack (rule R163). -/
  | stackOverflow
  /-- 3: 00EE on an empty stack (rule R164). -/
  | stackUnderflow
  /-- 4: a fetch with `pc` above 0xFFE (rule R162). -/
  | fetchOutOfRange
  /-- 5: Ex9E or ExA1 with a key index above 0xF (rule R165). -/
  | keyIndexOutOfRange
  deriving DecidableEq, Repr

/-- The fault latch FAULT (rule R21). -/
structure FaultLatch where
  code : FaultCode
  opcode : Word
  deriving DecidableEq, Repr

/-- What the host does next (rules R5, R26; log entry 3): the events it takes first, then a cycle of events it
repeats for ever, or, where the cycle is empty, the free events of `Config.event`. Every interleaving of the events,
finite or endless, is one of these. The model's own. -/
structure Environment where
  /-- The events taken first, in order. -/
  schedule : List Event
  /-- The cycle repeated when the schedule is empty; when it is empty too, the host chooses freely. -/
  repeats : List Event
  /-- How many events the host has chosen freely: it names the next free event. -/
  turn : Nat
  deriving DecidableEq, Repr

/-- The state of the core: rule R23's list from `v` to `fault`, and then four fields of the model's own,
which hold the parameters of rule R5 and the load window of rule R193. -/
structure State where
  /-- V[0] to V[15] (rule R10); V[15] is the flag register (rule R11). -/
  v : Vector Byte 16
  /-- The index register I (rule R12). -/
  index : Word
  /-- The program counter (rule R13). -/
  pc : Word
  /-- The call stack, slots 0 to 15 (rule R14). -/
  stack : Vector Word 16
  /-- The stack pointer SP, 0 to 16 (rule R15). -/
  sp : Fin 17
  /-- The delay timer DT (rule R16). -/
  dt : Byte
  /-- The sound timer ST (rule R17). -/
  st : Byte
  /-- The display, 32 rows of 64 pixels: pixel (column, row) is bit `column` of entry `row`, lit when 1; it is
  `display[column + row * 64]` of rule R18. -/
  display : Vector (BitVec 64) 32
  /-- The key flags: bit k is key k, 1 is pressed (rules R19, R27). -/
  keys : BitVec 16
  /-- The memory: the bytes that differ from their reset contents, by rising address (rules R20, R40). -/
  mem : List Host.Cell
  /-- The fault latch (rule R21). -/
  fault : FaultLatch
  /-- The parameter FONT of this machine (rules R5, R43; log entry 1): what addresses 0x000 to 0x04F hold
  at reset. The model's own field; no event changes it. -/
  font : Font
  /-- LOAD is still accepted: no STEP and no LOAD since the last RESET (rule R193; log entry 4). -/
  loadWindow : Bool
  /-- How many random bytes have been drawn (log entry 2). The model's own field: it only names the next
  free value. -/
  draws : Nat
  /-- What the host does next (rules R5, R26; log entry 3). The model's own field. -/
  environment : Environment
  deriving DecidableEq, Repr

/-- Host faults: none. Every fault of this hardware is an entry into the halted state that the spec
describes (rule R166), so it is a next state with the FAULT latch written, and no data access can leave
memory (rule R46). Nobody raises a host fault; that is safe. -/
inductive Fault where
  deriving DecidableEq, Repr

/-- Refusals. -/
inductive Refusal where
  /-- An instruction of the opcode table without a meaning yet, raised by its arm of `exec`. Safe: the model
  stops. No arm raises it in this model. -/
  | notModelled (mnemonic : String)
  deriving DecidableEq, Repr

/-- The state right after RESET of a core whose parameter FONT is `font` (rules R29, R190). -/
def State.resetWith (font : Font) : State where
  v := Vector.replicate 16 0
  index := 0
  pc := 0x0200
  stack := Vector.replicate 16 0
  sp := 0
  dt := 0
  st := 0
  display := Vector.replicate 32 0
  keys := 0
  mem := []
  fault := ⟨.none, 0⟩
  font := font
  loadWindow := true
  draws := 0
  environment := ⟨[], [], 0⟩

/-- The state right after RESET (rule R29) with the default FONT (rule R43). -/
def State.reset : State := State.resetWith defaultFont

end Sys2Proof.Machine
end

