-- ==== Sys2Proof/Machine/Ops.lean ====
section
/-! DEFINITION. The named operations every instruction and event is built from: registers, memory, the
call stack, the display, the keys, the fetch, the random byte and fault entry. -/

namespace Sys2Proof.Machine

/-- What an instruction or an event answers. -/
abbrev Result := Host.Outcome State Fault Refusal

/-! ## Registers (rules R10 to R17) -/

/-- `V[r]` (rule R10). -/
def State.reg (s : State) (r : Reg) : Byte := s.v[r.toNat]'r.isLt

/-- `V[r] <- b` (rule R10). -/
def State.setReg (s : State) (r : Reg) (b : Byte) : State := { s with v := s.v.set r.toNat b r.isLt }

/-- `I <- w` (rule R12). -/
def State.setIndex (s : State) (w : Word) : State := { s with index := w }

/-- `pc <- w` (rule R13). -/
def State.setPc (s : State) (w : Word) : State := { s with pc := w }

/-- `DT <- b` (rule R16). -/
def State.setDt (s : State) (b : Byte) : State := { s with dt := b }

/-- `ST <- b` (rule R17). -/
def State.setSt (s : State) (b : Byte) : State := { s with st := b }

/-- The key flags replaced, all 16 at once (rules R19, R177). -/
def State.setKeys (s : State) (k : BitVec 16) : State := { s with keys := k }

/-- `pc <- pc + 2`: the advance of the fetch, and once more the skip of an instruction (rules R45, R81). -/
def State.advance (s : State) : State := s.setPc (s.pc + 2)

/-- `pc <- pc - 2`: back to the address of the executing instruction (rule R142). -/
def State.rewind (s : State) : State := s.setPc (s.pc - 2)

/-! ## Memory (rules R40 to R49) -/

/-- What address `a` holds at RESET (rule R29): the font below 0x050, zero above. It is what an address reads
as that the memory list does not name. -/
def Memory.unlisted (font : Font) (a : Nat) : Byte := if h : a < 80 then font[a] else 0

/-- The byte the list gives for address `a`, if it names it. -/
def Memory.lookup : List Host.Cell → Nat → Option Byte
  | [], _ => none
  | (k, b) :: m, a => if k = a then some b else Memory.lookup m a

/-- The byte at address `a`. -/
def Memory.read (font : Font) (m : List Host.Cell) (a : Nat) : Byte :=
  (Memory.lookup m a).getD (Memory.unlisted font a)

/-- The list without an entry for address `a`. -/
def Memory.erase : List Host.Cell → Nat → List Host.Cell
  | [], _ => []
  | (k, b) :: m, a => if k = a then Memory.erase m a else (k, b) :: Memory.erase m a

/-- The list with the entry `(a, v)` at its place. -/
def Memory.insert : List Host.Cell → Nat → Byte → List Host.Cell
  | [], a, v => [(a, v)]
  | (k, b) :: m, a, v =>
    if a < k then (a, v) :: (k, b) :: m
    else if a = k then (a, v) :: m
    else (k, b) :: Memory.insert m a v

/-- The memory after byte `v` is stored at `a`, in canonical form. -/
def Memory.write (font : Font) (m : List Host.Cell) (a : Nat) (v : Byte) : List Host.Cell :=
  if v = Memory.unlisted font a then Memory.erase m a else Memory.insert m a v

/-- The canonical form: addresses below 4096 and strictly rising, no entry equal to what an unlisted address
reads as. -/
def Memory.wf (font : Font) : List Host.Cell → Bool
  | [] => true
  | (k, b) :: m =>
    decide (k < 4096) && b != Memory.unlisted font k && m.all (fun c => decide (k < c.1)) && Memory.wf font m

/-- `MemRead(a, 1)` (rule R47). -/
def State.readByte (s : State) (a : Addr) : Byte := Memory.read s.font s.mem a.toNat

/-- `MemWrite(a, 1, b)` (rule R47). -/
def State.writeByte (s : State) (a : Addr) (b : Byte) : State :=
  { s with mem := Memory.write s.font s.mem a.toNat b }

/-- `EA(off) = (I + off) mod 4096` (rule R46), the one data addressing mode. -/
def State.ea (s : State) (off : Nat) : Addr := BitVec.ofNat 12 (s.index.toNat + off)

/-! ## The call stack (rules R14, R15, R83, R84) -/

/-- `Push(a)`: the state after it, or nothing when the stack is full (rule R83). -/
def State.push (s : State) (a : Word) : Option State :=
  if h : s.sp.val < 16 then
    some { s with stack := s.stack.set s.sp.val a h, sp := ⟨s.sp.val + 1, Nat.succ_lt_succ h⟩ }
  else none

/-- `Pop()`: the popped address and the state after it, or nothing when the stack is empty (rule R84). -/
def State.pop (s : State) : Option (Word × State) :=
  if h : 0 < s.sp.val then
    some (s.stack[s.sp.val - 1]'(by omega), { s with sp := ⟨s.sp.val - 1, by omega⟩ })
  else none

/-! ## The display (rules R18, R131) -/

/-- The pixel at a column and a row of the grid; outside the grid there is none (rule R18). -/
def Display.lit (d : Vector (BitVec 64) 32) (col row : Nat) : Bool :=
  if h : row < 32 then (d[row]).getLsbD col else false

/-- The pixel at a column and a row of the grid toggled. -/
def Display.toggle (d : Vector (BitVec 64) 32) (col row : Nat) : Vector (BitVec 64) 32 :=
  if h : row < 32 then d.set row (d[row] ^^^ BitVec.twoPow 64 col) h else d

/-- `display[p]`, p = column + row * 64 (rule R18). -/
def State.pixel (s : State) (p : Nat) : Bool := Display.lit s.display (p % 64) (p / 64)

/-- What a sprite in the making has done: the display, and whether a lit pixel was met (rule R131). -/
structure Canvas where
  display : Vector (BitVec 64) 32
  collided : Bool
  deriving DecidableEq, Repr

/-- One set sprite bit at a target column and row: dropped outside the grid; else a lit target is a
collision, and the target is toggled (rule R131). -/
def Canvas.plot (c : Canvas) (col row : Nat) : Canvas :=
  if col ≤ 63 ∧ row ≤ 31 then
    ⟨Display.toggle c.display col row, c.collided || Display.lit c.display col row⟩
  else c

/-- The first `k` columns of a sprite row `b` whose column 0 falls on `ox`; column `col` is bit `7 - col` of
`b` (rule R131). -/
def Canvas.drawRow (c : Canvas) (b : Byte) (ox py : Nat) : Nat → Canvas
  | 0 => c
  | k + 1 =>
    let d := c.drawRow b ox py k
    if b.getLsbD (7 - k) then d.plot (ox + k) py else d

/-- The first `k` rows of the sprite at `I` with its origin at `(ox, oy)`; row `row` is the byte at `EA(row)`
(rule R131). -/
def State.drawRows (s : State) (ox oy : Nat) : Nat → Canvas
  | 0 => ⟨s.display, false⟩
  | k + 1 => (s.drawRows ox oy k).drawRow (s.readByte (s.ea k)) ox (oy + k) 8

/-- The display replaced. -/
def State.setDisplay (s : State) (d : Vector (BitVec 64) 32) : State := { s with display := d }

/-! ## Register blocks in memory (rules R151, R152) -/

/-- `V[0]` to `V[k-1]` stored at `EA(0)` to `EA(k-1)`, ascending (rules R50, R151). -/
def State.storeRegs (s : State) : Nat → State
  | 0 => s
  | k + 1 => (s.storeRegs k).writeByte (s.ea k) (s.reg (BitVec.ofNat 4 k))

/-- `V[0]` to `V[k-1]` loaded from `EA(0)` to `EA(k-1)`, ascending (rules R50, R152). -/
def State.loadRegs (s : State) : Nat → State
  | 0 => s
  | k + 1 => (s.loadRegs k).setReg (BitVec.ofNat 4 k) (s.readByte (s.ea k))

/-! ## Keys (rules R19, R142) -/

/-- `keys[k]`: key `k` is pressed (rule R19). -/
def State.keyDown (s : State) (k : Nat) : Bool := s.keys.getLsbD k

/-- The lowest pressed key, if any key is pressed (rule R142). -/
def State.firstKey (s : State) : Option Nat := (List.range 16).find? fun k => s.keyDown k

/-! ## The random byte (rules R105, R179; log entry 2) -/

/-- The byte RND of this execution of Cxnn: the next free value. -/
def State.rnd (s : State) : Byte := Config.rnd s.draws

/-- The next execution of Cxnn draws a fresh byte. -/
def State.nextDraw (s : State) : State := { s with draws := s.draws + 1 }

/-! ## Faults (rules R160, R166, R167) -/

/-- The 3-bit number of a fault code (rule R160). -/
def FaultCode.number : FaultCode → BitVec 3
  | .none => 0
  | .illegalOpcode => 1
  | .stackOverflow => 2
  | .stackUnderflow => 3
  | .fetchOutOfRange => 4
  | .keyIndexOutOfRange => 5

/-- `FAULT.code ≠ 0` (rule R167). -/
def State.halted (s : State) : Bool := s.fault.code != .none

/-- `raise F(op)`: fault entry (rule R166). It latches the code and the opcode and changes nothing else; the
STEP ends because the caller does nothing after it. There is no return from a fault: only RESET clears the
latch (rule R168). -/
def State.raise (s : State) (code : FaultCode) (op : Word) : State := { s with fault := ⟨code, op⟩ }

/-! ## The fetch (rules R44, R45) -/

/-- Both bytes at `pc` are in memory (rule R45). -/
def State.fetchable (s : State) : Bool := decide (s.pc.toNat ≤ 0x0FFE)

/-- The opcode at `pc`, high byte first (rules R44, R45). -/
def State.fetchWord (s : State) : Word :=
  wordOfBytes (s.readByte (BitVec.ofNat 12 s.pc.toNat)) (s.readByte (BitVec.ofNat 12 (s.pc.toNat + 1)))

/-- A word stored where `fetchWord` reads it. -/
def State.storeAtPc (s : State) (w : Word) : State :=
  (s.writeByte (BitVec.ofNat 12 s.pc.toNat) (highByte w)).writeByte (BitVec.ofNat 12 (s.pc.toNat + 1))
    (lowByte w)

/-- The first STEP closes the window in which LOAD is accepted (rule R193). -/
def State.closeWindow (s : State) : State := { s with loadWindow := false }

end Sys2Proof.Machine
end

