-- ==== Sys2Proof/Machine/Flags.lean ====
section
/-! DEFINITION. The flag computations: VF is the only flag of the hardware (rule R11). Every flag is
computed from the operands as they were before the instruction (rule R110). -/

namespace Sys2Proof.Machine

/-- VF, the flag register: V[15] (rule R11). -/
def vf : Reg := 0xF#4

/-- A flag as the byte VF takes: 1 or 0 (rule R11). -/
def flagByte (f : Bool) : Byte := if f then 1 else 0

/-- The unsigned sum exceeds 255 (rule R115). -/
def carryOut (a b : Byte) : Bool := decide (a.toNat + b.toNat > 255)

/-- No borrow in `a - b`: `a ≥ b`, unsigned (rules R116, R118). -/
def noBorrow (a b : Byte) : Bool := decide (a.toNat ≥ b.toNat)

/-- The bit a right shift by one shifts out: bit 0 (rule R117). -/
def shiftedOutRight (a : Byte) : Bool := a.getLsbD 0

/-- The bit a left shift by one shifts out: bit 7 (rule R119). -/
def shiftedOutLeft (a : Byte) : Bool := a.getLsbD 7

/-- The result to `V[x]`, then the flag to VF: the flag is last, so with x = 0xF it overwrites the result
(rule R110). -/
def State.setResultThenFlag (s : State) (x : Reg) (result : Byte) (flag : Bool) : State :=
  (s.setReg x result).setReg vf (flagByte flag)

end Sys2Proof.Machine
end

