-- ==== Sys2Proof/Machine/Operands.lean ====
section
/-! DEFINITION. The operand forms: how a field of the opcode or a register value becomes the value an
instruction works on (rules R63, R104, R131, R140, R150). -/

namespace Sys2Proof.Machine

/-- `zext_16(nnn)` (rule R63). -/
def zextAddr (nnn : Addr) : Word := nnn.setWidth 16

/-- `zext_16(b)` (rules R103, R104). -/
def zextByte (b : Byte) : Word := b.setWidth 16

/-- A key index: an 8-bit value that must be 0 to 15, not masked (rules R140, R141, R165). -/
def keyIndex (b : Byte) : Option Nat := if b.toNat ≤ 15 then some b.toNat else none

/-- The column of a sprite's origin, `b mod 64` (rule R131). -/
def originColumn (b : Byte) : Nat := b.toNat % 64

/-- The row of a sprite's origin, `b mod 32` (rule R131). -/
def originRow (b : Byte) : Nat := b.toNat % 32

/-- The address of the glyph of a digit: the whole byte times 5, not masked (rule R104). -/
def glyphAddress (b : Byte) : Word := zextByte b * 5

/-- The hundreds digit (rule R150). -/
def hundreds (b : Byte) : Byte := BitVec.ofNat 8 (b.toNat / 100)

/-- The tens digit (rule R150). -/
def tens (b : Byte) : Byte := BitVec.ofNat 8 (b.toNat / 10 % 10)

/-- The ones digit (rule R150). -/
def ones (b : Byte) : Byte := BitVec.ofNat 8 (b.toNat % 10)

end Sys2Proof.Machine
end

