-- ==== Sys2Proof/Machine/Alu.lean ====
section
/-! DEFINITION. The register-register family 8xy_ (`42_alu.md`, rules R110 to R119). Operands are read
first; the five flag-writing instructions write the result and then VF (rule R110). None assigns `pc`,
none can fault. -/

namespace Sys2Proof.Machine

/-- 8xy0, LD Vx, Vy (rule R111). -/
def execLdVxVy (x y : Reg) (s : State) : Result := .next (s.setReg x (s.reg y))

/-- 8xy1, OR Vx, Vy (rule R112): VF is not written. -/
def execOr (x y : Reg) (s : State) : Result := .next (s.setReg x (s.reg x ||| s.reg y))

/-- 8xy2, AND Vx, Vy (rule R113): VF is not written. -/
def execAnd (x y : Reg) (s : State) : Result := .next (s.setReg x (s.reg x &&& s.reg y))

/-- 8xy3, XOR Vx, Vy (rule R114): VF is not written. -/
def execXor (x y : Reg) (s : State) : Result := .next (s.setReg x (s.reg x ^^^ s.reg y))

/-- 8xy4, ADD Vx, Vy (rule R115): VF is the carry out. -/
def execAddVxVy (x y : Reg) (s : State) : Result :=
  .next (s.setResultThenFlag x (s.reg x + s.reg y) (carryOut (s.reg x) (s.reg y)))

/-- 8xy5, SUB Vx, Vy (rule R116): VF is 1 when there is no borrow. -/
def execSub (x y : Reg) (s : State) : Result :=
  .next (s.setResultThenFlag x (s.reg x - s.reg y) (noBorrow (s.reg x) (s.reg y)))

/-- 8xy6, SHR Vx (rule R117): `V[x]` in place, logical; the field y is not used. -/
def execShr (x _y : Reg) (s : State) : Result :=
  .next (s.setResultThenFlag x (s.reg x >>> 1) (shiftedOutRight (s.reg x)))

/-- 8xy7, SUBN Vx, Vy (rule R118): VF is 1 when there is no borrow. -/
def execSubn (x y : Reg) (s : State) : Result :=
  .next (s.setResultThenFlag x (s.reg y - s.reg x) (noBorrow (s.reg y) (s.reg x)))

/-- 8xyE, SHL Vx (rule R119): `V[x]` in place; the field y is not used. -/
def execShl (x _y : Reg) (s : State) : Result :=
  .next (s.setResultThenFlag x (s.reg x <<< 1) (shiftedOutLeft (s.reg x)))

end Sys2Proof.Machine
end

