-- ==== Sys2Proof/Machine/ControlFlow.lean ====
section
/-! DEFINITION. Jump, call, return and the four skips on registers (`40_control_flow.md`, rules R81 to
R90). Every meaning is the execute phase: it is entered with `pc` already advanced (rule R13). -/

namespace Sys2Proof.Machine

/-- Skip the next instruction if the condition holds (rule R81). -/
def State.skipIf (s : State) (c : Bool) : State := if c then s.advance else s

/-- 00EE, RET (rule R86): `pc <- Pop()`; on an empty stack StackUnderflow (rule R164). -/
def execRet (s : State) : Result :=
  match s.pop with
  | some (a, t) => .next (t.setPc a)
  | none => .next (s.raise .stackUnderflow (encode .ret))

/-- 1nnn, JP nnn (rule R82). -/
def execJp (nnn : Addr) (s : State) : Result := .next (s.setPc (zextAddr nnn))

/-- 2nnn, CALL nnn (rule R85): `Push(pc)`, `pc <- nnn`; on a full stack StackOverflow (rule R163). -/
def execCall (nnn : Addr) (s : State) : Result :=
  match s.push s.pc with
  | some t => .next (t.setPc (zextAddr nnn))
  | none => .next (s.raise .stackOverflow (encode (.call nnn)))

/-- 3xnn, SE Vx, nn (rule R87). -/
def execSeVxNn (x : Reg) (nn : Byte) (s : State) : Result := .next (s.skipIf (s.reg x == nn))

/-- 4xnn, SNE Vx, nn (rule R88). -/
def execSneVxNn (x : Reg) (nn : Byte) (s : State) : Result := .next (s.skipIf (s.reg x != nn))

/-- 5xy0, SE Vx, Vy (rule R89). -/
def execSeVxVy (x y : Reg) (s : State) : Result := .next (s.skipIf (s.reg x == s.reg y))

/-- 9xy0, SNE Vx, Vy (rule R90). -/
def execSneVxVy (x y : Reg) (s : State) : Result := .next (s.skipIf (s.reg x != s.reg y))

end Sys2Proof.Machine
end

