-- ==== Sys2Proof/Machine/Display.lean ====
section
/-! DEFINITION. The display instructions (`43_display.md`, rules R130, R131). Neither assigns `pc`, neither
can fault. -/

namespace Sys2Proof.Machine

/-- 00E0, CLS (rule R130). -/
def execCls (s : State) : Result := .next (s.setDisplay (Vector.replicate 32 0))

/-- Dxyn, DRW Vx, Vy, n (rule R131): the origin is read before VF is cleared; VF ends as 1 if a surviving
set bit met a lit pixel, else 0. -/
def execDrw (x y : Reg) (n : Nibble) (s : State) : Result :=
  let c := s.drawRows (originColumn (s.reg x)) (originRow (s.reg y)) n.toNat
  .next ((s.setDisplay c.display).setReg vf (flagByte c.collided))

end Sys2Proof.Machine
end

