-- ==== Sys2Proof/Machine/KeysTimers.lean ====
section
/-! DEFINITION. Key and timer instructions (`44_keys_and_timers.md`, rules R140 to R145). The keys and the
timers are sampled at the STEP that executes the instruction (rule R26). -/

namespace Sys2Proof.Machine

/-- Ex9E, SKP Vx (rule R140): skip if key `V[x]` is pressed; above 15 KeyIndexOutOfRange (rule R165). -/
def execSkp (x : Reg) (s : State) : Result :=
  match keyIndex (s.reg x) with
  | some k => .next (s.skipIf (s.keyDown k))
  | none => .next (s.raise .keyIndexOutOfRange (encode (.skp x)))

/-- ExA1, SKNP Vx (rule R141): skip if key `V[x]` is not pressed; above 15 KeyIndexOutOfRange (rule R165). -/
def execSknp (x : Reg) (s : State) : Result :=
  match keyIndex (s.reg x) with
  | some k => .next (s.skipIf (!s.keyDown k))
  | none => .next (s.raise .keyIndexOutOfRange (encode (.sknp x)))

/-- Fx07, LD Vx, DT (rule R143). -/
def execLdVxDt (x : Reg) (s : State) : Result := .next (s.setReg x s.dt)

/-- Fx0A, LD Vx, K (rule R142): the lowest pressed key; with no key pressed `pc` goes back to this
instruction and nothing else changes. -/
def execLdVxK (x : Reg) (s : State) : Result :=
  match s.firstKey with
  | some k => .next (s.setReg x (BitVec.ofNat 8 k))
  | none => .next s.rewind

/-- Fx15, LD DT, Vx (rule R144). -/
def execLdDtVx (x : Reg) (s : State) : Result := .next (s.setDt (s.reg x))

/-- Fx18, LD ST, Vx (rule R145). -/
def execLdStVx (x : Reg) (s : State) : Result := .next (s.setSt (s.reg x))

end Sys2Proof.Machine
end

