-- ==== Sys2Proof/Machine/Load.lean ====
section
/-! DEFINITION. Immediate loads, the index register and the random byte (`41_load_and_index.md`, rules
R100 to R105). None assigns `pc`, none writes VF as a side effect, none can fault. -/

namespace Sys2Proof.Machine

/-- 6xnn, LD Vx, nn (rule R100). -/
def execLdVxNn (x : Reg) (nn : Byte) (s : State) : Result := .next (s.setReg x nn)

/-- 7xnn, ADD Vx, nn (rule R101): modulo 256, no flag. -/
def execAddVxNn (x : Reg) (nn : Byte) (s : State) : Result := .next (s.setReg x (s.reg x + nn))

/-- Annn, LD I, nnn (rule R102). -/
def execLdINnn (nnn : Addr) (s : State) : Result := .next (s.setIndex (zextAddr nnn))

/-- Cxnn, RND Vx, nn (rule R105): a fresh random byte, masked. -/
def execRnd (x : Reg) (nn : Byte) (s : State) : Result := .next ((s.setReg x (s.rnd &&& nn)).nextDraw)

/-- Fx1E, ADD I, Vx (rule R103): modulo 65536, no flag. -/
def execAddIVx (x : Reg) (s : State) : Result := .next (s.setIndex (s.index + zextByte (s.reg x)))

/-- Fx29, LD F, Vx (rule R104). -/
def execLdFVx (x : Reg) (s : State) : Result := .next (s.setIndex (glyphAddress (s.reg x)))

end Sys2Proof.Machine
end

