-- ==== Sys2Proof/Machine/MemoryOps.lean ====
section
/-! DEFINITION. The memory instructions (`45_memory_ops.md`, rules R150 to R152). `I` is never modified;
every address is reduced modulo 4096 (rule R46); none assigns `pc`, none can fault. -/

namespace Sys2Proof.Machine

/-- Fx33, LD B, Vx (rule R150): the three decimal digits, one a byte. -/
def execLdBVx (x : Reg) (s : State) : Result :=
  let b := s.reg x
  .next (((s.writeByte (s.ea 0) (hundreds b)).writeByte (s.ea 1) (tens b)).writeByte (s.ea 2) (ones b))

/-- Fx55, LD [I], Vx (rule R151): `V[0]` to `V[x]`, inclusive. -/
def execLdMiVx (x : Reg) (s : State) : Result := .next (s.storeRegs (x.toNat + 1))

/-- Fx65, LD Vx, [I] (rule R152): `V[0]` to `V[x]`, inclusive. -/
def execLdVxMi (x : Reg) (s : State) : Result := .next (s.loadRegs (x.toNat + 1))

end Sys2Proof.Machine
end

