-- ==== Sys2Proof/Machine/Events.lean ====
section
/-! DEFINITION. The six events of rule R25, each one atomic transition of the state (rule R26). -/

namespace Sys2Proof.Machine

/-- RESET (rule R190): every piece of state to its reset value, in every state, running or halted. The
parameter FONT, the draws of RND and the host's schedule are the environment's and stay. -/
def State.resetEvent (s : State) : State :=
  { State.resetWith s.font with draws := s.draws, environment := s.environment }

/-- The bytes stored from address `a` upward (rule R192). -/
def State.storeImage (s : State) (a : Nat) : List Byte → State
  | [] => s
  | b :: bs => (s.writeByte (BitVec.ofNat 12 a) b).storeImage (a + 1) bs

/-- LOAD is accepted: inside the window, the core not halted, the image at most 3584 bytes (rules R167, R192,
R193). -/
def State.acceptsLoad (s : State) (image : List Byte) : Bool :=
  s.loadWindow && !s.halted && decide (image.length ≤ 3584)

/-- LOAD(IMAGE) (rules R192, R193): the image goes to 0x200 upward and the window closes; a LOAD that is not
accepted changes nothing. -/
def State.loadEvent (s : State) (image : List Byte) : State :=
  if s.acceptsLoad image then (s.storeImage 0x200 image).closeWindow else s

/-- A timer after one TICK: down by one, never below 0 (rule R175). -/
def timerAfterTick (b : Byte) : Byte := if b = 0 then 0 else b - 1

/-- TICK (rule R175): both timers, in every state. -/
def State.tickEvent (s : State) : State := (s.setDt (timerAfterTick s.dt)).setSt (timerAfterTick s.st)

/-- KEYS(k) (rule R177): all 16 flags at once, in every state. -/
def State.keysEvent (s : State) (k : BitVec 16) : State := s.setKeys k

/-- What the host reads by OBSERVE: the whole state of rule R23, piece by piece (rules R28, R54, R167, R178; log
entry 11). The output ports of rule R27 carry `display`, `dt`, `st`, `faultCode` and `faultOpcode` of it. -/
structure Observation where
  v : Vector Byte 16
  index : Word
  pc : Word
  stack : Vector Word 16
  sp : Fin 17
  dt : Byte
  st : Byte
  display : Vector (BitVec 64) 32
  keys : BitVec 16
  /-- All 4096 bytes: entry `a` is the byte at address `a`. -/
  mem : Vector Byte 4096
  faultCode : BitVec 3
  faultOpcode : Word
  deriving DecidableEq, Repr

/-- All of memory as the host reads it (rules R28, R54). -/
def State.memoryImage (s : State) : Vector Byte 4096 :=
  Vector.ofFn fun a : Fin 4096 => s.readByte (BitVec.ofNat 12 a.val)

/-- What OBSERVE shows of the state at an instruction boundary, running or halted (rules R28, R167, R178); reading
it is no change of state. -/
def State.observe (s : State) : Observation where
  v := s.v
  index := s.index
  pc := s.pc
  stack := s.stack
  sp := s.sp
  dt := s.dt
  st := s.st
  display := s.display
  keys := s.keys
  mem := s.memoryImage
  faultCode := s.fault.code.number
  faultOpcode := s.fault.opcode

/-- Decode and execute the word fetched from the address before `pc` (rule R80): an illegal word raises
IllegalOpcode (rule R161). -/
def executeWord (op : Word) (s : State) : Result :=
  match decodeWord op with
  | .ok i => exec i s
  | .error _ => .next (s.raise .illegalOpcode op)

/-- The fetch and what follows it, of a core that is not halted (rules R45, R80): beyond 0xFFE
FetchOutOfRange with `pc` unchanged (rule R162). -/
def fetchAndExecute (s : State) : Result :=
  if s.fetchable then executeWord s.fetchWord s.advance
  else .next (s.raise .fetchOutOfRange 0)

/-- STEP (rule R80): a halted core does not change at all (rule R167). -/
def stepEvent (s : State) : Result :=
  if s.halted then .next s else fetchAndExecute s.closeWindow

/-- One event (rule R25). -/
def handle (e : Event) (s : State) : Result :=
  match e with
  | .reset => .next s.resetEvent
  | .load image => .next (s.loadEvent image)
  | .step => stepEvent s
  | .tick => .next s.tickEvent
  | .keys k => .next (s.keysEvent k)
  | .observe => .next s

/-- The host's next event and what it does after it: the head of the schedule; with nothing scheduled the head of
the cycle, whose rest is then scheduled; with no cycle either a free event (rules R5, R26; log entry 3). -/
def Environment.next (v : Environment) : Event × Environment :=
  match v.schedule, v.repeats with
  | e :: rest, _ => (e, { v with schedule := rest })
  | [], e :: rest => (e, { v with schedule := rest })
  | [], [] => (Config.event v.turn, { v with turn := v.turn + 1 })

/-- The environment's next event and the state that waits for it (rule R26). -/
def State.nextEvent (s : State) : Event × State :=
  (s.environment.next.1, { s with environment := s.environment.next.2 })

/-- The state in which the host takes the events `l` before what it would have done (rule R26). -/
def State.withEvents (s : State) (l : List Event) : State :=
  { s with environment := { s.environment with schedule := l ++ s.environment.schedule } }

/-- The state whose next event is a STEP that fetches: a STEP before all else, no fault, and `pc` kept if both of
its bytes are in memory, else at the entry point 0x200 (rule R191; log entry 6). -/
def State.readyToFetch (s : State) : State :=
  { s.withEvents [.step] with fault := ⟨.none, 0⟩, pc := if s.fetchable then s.pc else 0x0200 }

end Sys2Proof.Machine
end

