-- ==== Sys2Proof/Machine/Step.lean ====
section
/-! DEFINITION. One step of the machine is one event of the environment (rules R25, R26); a STEP event
executes one instruction (rule R80). -/

namespace Sys2Proof.Machine

/-- One event, the one the environment has next (rules R25, R26; log entry 3). -/
def step (s : State) : Host.Outcome State Fault Refusal := handle s.nextEvent.1 s.nextEvent.2

/-- The state with the word `w` of the opcode table where the next step fetches its instruction. -/
def State.withFetchWord (s : State) (nbits w : Nat) : State := s.readyToFetch.storeAtPc (tableWord nbits w)

end Sys2Proof.Machine
end

