-- ==== Sys2Proof/Safety.lean ====
section
/-! DEFINITION. The terms claims are stated in: the pieces of state and what changes only some of them
(rule R7), a good run and the invariant of the machine, and where a sprite falls. -/

namespace Sys2Proof.Machine

/-! ## Frames -/

/-- One piece of the state rule R23 lists, a bit or a number each; `draws` is the model's own counter of
random bytes (log entry 2). -/
inductive Piece where
  | v (r : Reg)
  | index
  | pc
  | stack (k : Fin 16)
  | sp
  | dt
  | st
  | pixel (p : Fin 2048)
  | key (k : Fin 16)
  | byte (a : Addr)
  | faultCode
  | faultOpcode
  | draws
  deriving DecidableEq, Repr

/-- The value of a piece of state, as an unsigned number. -/
def State.get (s : State) : Piece → Nat
  | .v r => (s.reg r).toNat
  | .index => s.index.toNat
  | .pc => s.pc.toNat
  | .stack k => s.stack[k].toNat
  | .sp => s.sp.val
  | .dt => s.dt.toNat
  | .st => s.st.toNat
  | .pixel p => (s.pixel p.val).toNat
  | .key k => (s.keyDown k.val).toNat
  | .byte a => (s.readByte a).toNat
  | .faultCode => s.fault.code.number.toNat
  | .faultOpcode => s.fault.opcode.toNat
  | .draws => s.draws

/-- The value of a piece of state as OBSERVE shows it, as an unsigned number; nothing is shown of `draws`, which is
no state of the core (rules R22, R28). -/
def Observation.get (o : Observation) : Piece → Option Nat
  | .v r => some (o.v[r.toNat]'r.isLt).toNat
  | .index => some o.index.toNat
  | .pc => some o.pc.toNat
  | .stack k => some o.stack[k].toNat
  | .sp => some o.sp.val
  | .dt => some o.dt.toNat
  | .st => some o.st.toNat
  | .pixel p => some (Display.lit o.display (p.val % 64) (p.val / 64)).toNat
  | .key k => some (o.keys.getLsbD k.val).toNat
  | .byte a => some (o.mem[a.toNat]'a.isLt).toNat
  | .faultCode => some o.faultCode.toNat
  | .faultOpcode => some o.faultOpcode.toNat
  | .draws => none

/-- From `s` to `t` no piece outside `w` changes, and neither do the environment's parameters: the frame rule
R7. Every byte of memory, every register, flag, pixel, key and stack slot is a piece. -/
def OnlyChanges (s t : State) (w : Set Piece) : Prop :=
  (∀ p, p ∉ w → t.get p = s.get p) ∧
    t.font = s.font ∧ t.loadWindow = s.loadWindow ∧ t.environment = s.environment

/-- All pixels of the display. -/
def allPixels : Set Piece := {q | ∃ p, q = .pixel p}

/-- The latch, both fields. -/
def theLatch : Set Piece := {.faultCode, .faultOpcode}

/-- The `n` bytes of memory a data access reaches: `EA(0)` to `EA(n-1)` (rule R46). -/
def dataBytes (s : State) (n : Nat) : Set Piece := {q | ∃ k, k < n ∧ q = .byte (s.ea k)}

/-- The pieces an instruction may write in its execute phase: the assignments of its rule's pseudocode
(rules R7, R13, R82 to R152), the FAULT latch for the four instructions that can raise. -/
def writes (s : State) : Instr → Set Piece
  | .cls => allPixels
  | .ret => {.pc, .sp} ∪ theLatch
  | .jp _ => {.pc}
  | .call _ => {.pc, .sp} ∪ {q | ∃ k : Fin 16, k.val = s.sp.val ∧ q = .stack k} ∪ theLatch
  | .seVxNn _ _ | .sneVxNn _ _ | .seVxVy _ _ | .sneVxVy _ _ => {.pc}
  | .ldVxNn x _ | .addVxNn x _ => {.v x}
  | .ldVxVy x _ | .or x _ | .and x _ | .xor x _ => {.v x}
  | .addVxVy x _ | .sub x _ | .shr x _ | .subn x _ | .shl x _ => {.v x, .v 0xF#4}
  | .ldINnn _ | .addIVx _ | .ldFVx _ => {.index}
  | .rnd x _ => {.v x, .draws}
  | .drw _ _ _ => {.v 0xF#4} ∪ allPixels
  | .skp _ | .sknp _ => {.pc} ∪ theLatch
  | .ldVxDt x => {.v x}
  | .ldVxK x => {.v x, .pc}
  | .ldDtVx _ => {.dt}
  | .ldStVx _ => {.st}
  | .ldBVx _ => dataBytes s 3
  | .ldMiVx x => dataBytes s (x.toNat + 1)
  | .ldVxMi x => {q | ∃ r : Reg, r.toNat ≤ x.toNat ∧ q = .v r}

/-- The six instructions that write VF as a side effect (rule R11). -/
def writesFlag : Instr → Bool
  | .addVxVy _ _ | .sub _ _ | .shr _ _ | .subn _ _ | .shl _ _ | .drw _ _ _ => true
  | .cls | .ret | .jp _ | .call _ => false
  | .seVxNn _ _ | .sneVxNn _ _ | .seVxVy _ _ | .sneVxVy _ _ => false
  | .ldVxNn _ _ | .addVxNn _ _ | .ldVxVy _ _ | .or _ _ | .and _ _ | .xor _ _ => false
  | .ldINnn _ | .rnd _ _ | .skp _ | .sknp _ => false
  | .ldVxDt _ | .ldVxK _ | .ldDtVx _ | .ldStVx _ | .addIVx _ | .ldFVx _ => false
  | .ldBVx _ | .ldMiVx _ | .ldVxMi _ => false

/-- The instruction names register `r` as a destination (rules R10, R152). -/
def namesDestination (r : Reg) : Instr → Bool
  | .ldVxNn x _ | .addVxNn x _ | .rnd x _ | .ldVxDt x | .ldVxK x => x == r
  | .ldVxVy x _ | .or x _ | .and x _ | .xor x _ => x == r
  | .addVxVy x _ | .sub x _ | .shr x _ | .subn x _ | .shl x _ => x == r
  | .ldVxMi x => decide (r.toNat ≤ x.toNat)
  | .cls | .ret | .jp _ | .call _ | .drw _ _ _ => false
  | .seVxNn _ _ | .sneVxNn _ _ | .seVxVy _ _ | .sneVxVy _ _ | .skp _ | .sknp _ => false
  | .ldINnn _ | .ldDtVx _ | .ldStVx _ | .addIVx _ | .ldFVx _ => false
  | .ldBVx _ | .ldMiVx _ => false

/-! ## Sprites -/

/-- The pixel at (col, row) of the grid is one a set bit of the sprite falls on: a sprite of `n` rows at `I`
with its origin at (ox, oy), the most significant bit of a row leftmost (rules R42, R131). -/
def spriteCovers (s : State) (ox oy n col row : Nat) : Bool :=
  decide (ox ≤ col ∧ col < ox + 8 ∧ oy ≤ row ∧ row < oy + n) &&
    (s.readByte (s.ea (row - oy))).getLsbD (7 - (col - ox))

/-! ## Good runs -/

/-- Nothing has gone wrong: the core is running. A halted core is never a final state that satisfies a claim
(rule R167). -/
def State.running (s : State) : Prop := s.fault.code = .none

/-- What the latch says is still true of the halted core, because a halted core does not move (rules R160 to
R167). -/
def State.latchOk (s : State) : Prop :=
  match s.fault.code with
  | .none => s.fault.opcode = 0
  | .illegalOpcode => ∃ c, decodeWord s.fault.opcode = .error (.illegal c)
  | .stackOverflow => s.sp.val = 16 ∧ ∃ nnn, s.fault.opcode = encode (.call nnn)
  | .stackUnderflow => s.sp.val = 0 ∧ s.fault.opcode = encode .ret
  | .fetchOutOfRange => 0x0FFE < s.pc.toNat ∧ s.fault.opcode = 0
  | .keyIndexOutOfRange =>
    ∃ x, 15 < (s.reg x).toNat ∧ (s.fault.opcode = encode (.skp x) ∨ s.fault.opcode = encode (.sknp x))

/-- While LOAD is accepted no instruction has run: the state is the reset state but for the keys (rules R29,
R193). -/
def State.untouched (s : State) : Prop :=
  s = { State.resetWith s.font with keys := s.keys, draws := s.draws, environment := s.environment }

/-- `pc` is even, and so is every return address the stack holds (rule R48). -/
def State.pcEven (s : State) : Prop :=
  s.pc.toNat % 2 = 0 ∧ ∀ k : Fin 16, k.val < s.sp.val → s.stack[k].toNat % 2 = 0

/-- The invariant of the machine: it holds at reset and every event keeps it. -/
structure State.Inv (s : State) : Prop where
  /-- The memory list has its canonical form. -/
  memory : Memory.wf s.font s.mem = true
  /-- The largest `pc` a run reaches (rule R13). -/
  pcBound : s.pc.toNat ≤ 0x1002
  /-- Only advanced `pc` values are pushed (rules R13, R14). -/
  stackBound : ∀ k : Fin 16, s.stack[k].toNat ≤ 0x1000
  /-- The latch agrees with the state it stopped. -/
  latch : s.latchOk
  /-- The load window. -/
  window : s.loadWindow = true → s.untouched

end Sys2Proof.Machine
end

