-- ==== Sys2Proof/Certificates/Slice0/Obligations.lean ====
section
/-! DEFINITION. The statements for the provers, one `def Obligations.<Name> : Prop` each. `exec` is entered
with `pc` already advanced past the instruction (rule R13); `OnlyChanges s t w` says that every piece of
state outside `w` is unchanged: every register, flag, pixel, key, stack slot and every byte of memory. -/

open Sys2Proof Sys2Proof.Machine

/-! ## Encoding -/

/-- Every operand of every instruction survives encoding and decoding (`30_encoding.md`). -/
def Obligations.DecodeOfEncodeIsTheInstruction : Prop :=
  ∀ i : Instr, decodeWord (encode i) = .ok i

/-- A word that decodes is the encoding of what it decodes to: each legal word has one meaning, and no bit
of it is dropped, the unused field y of the shifts included (rule R67). The FAULT latch therefore records
the fetched word. -/
def Obligations.EncodeOfDecodeIsTheWord : Prop :=
  ∀ (w : Word) (i : Instr), decodeWord w = .ok i → encode i = w

/-- The opcode map of rule R64: 33 rows, at most one matches a word, and a word decodes exactly when a row
matches it, to an instruction of that row. -/
def Obligations.DecodeFollowsTheOpcodeMap : Prop :=
  opcodeMap.length = 33 ∧
    ∀ w : Word,
      (∀ r ∈ opcodeMap, ∀ q ∈ opcodeMap, r.matches w → q.matches w → r = q) ∧
      ((∃ r ∈ opcodeMap, r.matches w) → ∃ i, decodeWord w = .ok i) ∧
      ∀ i, decodeWord w = .ok i → i.row ∈ opcodeMap ∧ i.row.matches w

/-- The illegal words are exactly the classes (a) to (g) that rule R66 lists, each under its own name. -/
def Obligations.IllegalWordsAreTheSevenClasses : Prop :=
  ∀ w : Word,
    (decodeWord w = .error (.illegal .family0) ↔
      w.toNat / 4096 = 0 ∧ w.toNat ≠ 0x00E0 ∧ w.toNat ≠ 0x00EE) ∧
    (decodeWord w = .error (.illegal .family5) ↔ w.toNat / 4096 = 5 ∧ w.toNat % 16 ≠ 0) ∧
    (decodeWord w = .error (.illegal .family8) ↔
      w.toNat / 4096 = 8 ∧ w.toNat % 16 ∈ [8, 9, 0xA, 0xB, 0xC, 0xD, 0xF]) ∧
    (decodeWord w = .error (.illegal .family9) ↔ w.toNat / 4096 = 9 ∧ w.toNat % 16 ≠ 0) ∧
    (decodeWord w = .error (.illegal .familyB) ↔ w.toNat / 4096 = 0xB) ∧
    (decodeWord w = .error (.illegal .familyE) ↔
      w.toNat / 4096 = 0xE ∧ w.toNat % 256 ∉ [0x9E, 0xA1]) ∧
    (decodeWord w = .error (.illegal .familyF) ↔
      w.toNat / 4096 = 0xF ∧
        w.toNat % 256 ∉ [0x07, 0x0A, 0x15, 0x18, 0x1E, 0x29, 0x33, 0x55, 0x65]) ∧
    decodeWord w ≠ .error .truncated

/-- A word of each family, written from the spec's encoding, decodes to its instruction (vectors T9.12 to
T9.14 and the examples of the instruction rules). -/
def Obligations.SpecWordsDecode : Prop :=
  decodeWord 0x1A2B = .ok (.jp 0xA2B) ∧ decodeWord 0x6A2C = .ok (.ldVxNn 0xA 0x2C) ∧
    decodeWord 0x8AB7 = .ok (.subn 0xA 0xB) ∧ decodeWord 0xD7A5 = .ok (.drw 0x7 0xA 0x5) ∧
    decodeWord 0xE19E = .ok (.skp 0x1) ∧ decodeWord 0xF533 = .ok (.ldBVx 0x5) ∧
    decodeWord 0x00EE = .ok .ret ∧ decodeWord 0xC30F = .ok (.rnd 0x3 0x0F) ∧
    decode [0x1A, 0x2B, 0x77] = .ok (.jp 0xA2B, [0x77])

/-! ## The step -/

/-- A STEP of a running core whose bytes at `pc` decode to `i` is `exec i` on the state with `pc` advanced by 2
and the load window closed; the bytes are read high byte first (rules R44, R45, R80). -/
def Obligations.StepRunsTheDecodedInstruction : Prop :=
  ∀ (s u : State) (i : Instr), s.nextEvent = (.step, u) → u.running → u.pc.toNat ≤ 0x0FFE →
    decode [u.readByte (BitVec.ofNat 12 u.pc.toNat), u.readByte (BitVec.ofNat 12 (u.pc.toNat + 1))] =
      .ok (i, []) →
    step s = exec i { u with pc := u.pc + 2, loadWindow := false }

/-- The opcode is the big-endian word at `pc` (rules R44, R45). -/
def Obligations.FetchIsBigEndian : Prop :=
  ∀ s : State, s.pc.toNat ≤ 0x0FFE →
    s.fetchWord.toNat =
      256 * (s.readByte (BitVec.ofNat 12 s.pc.toNat)).toNat +
        (s.readByte (BitVec.ofNat 12 (s.pc.toNat + 1))).toNat

/-- A word stored at `pc` is the word fetched, with nothing in between: no instruction cache (rule R53). -/
def Obligations.StoreIsSeenByTheNextFetch : Prop :=
  ∀ (s : State) (hi lo : Byte), s.pc.toNat ≤ 0x0FFE →
    ((s.writeByte (BitVec.ofNat 12 s.pc.toNat) hi).writeByte (BitVec.ofNat 12 (s.pc.toNat + 1)) lo).fetchWord =
      hi ++ lo

/-- A byte written is the byte read back, and a write changes that byte alone (rule R47). -/
def Obligations.WriteByteChangesThatByteAlone : Prop :=
  ∀ (s : State) (a : Addr) (b : Byte),
    (s.writeByte a b).readByte a = b ∧ OnlyChanges s (s.writeByte a b) {.byte a}

/-- No event leaves the machine without an answer: there is no stuck state, no host fault and no refusal
(`93_implementation_defined.md`, end of part 1). The model's own fields (log entries 1 to 3): no event changes FONT or
the host's plan, and at most one random byte is drawn. The next event is the head of the schedule, then the cycle's
for ever, and with neither the host's free choice, which is any event. -/
def Obligations.EveryEventHasANextState : Prop :=
  (∀ (s u : State) (e : Event), s.nextEvent = (e, u) →
    ∃ t, step s = .next t ∧ t.font = u.font ∧ t.environment = u.environment ∧
      (t.draws = u.draws ∨ t.draws = u.draws + 1)) ∧
  ∀ (s : State) (v : Environment), s.environment = v →
    (∀ e rest, (v.schedule = e :: rest ∨ v.schedule = [] ∧ v.repeats = e :: rest) →
      s.nextEvent = (e, { s with environment := { v with schedule := rest } })) ∧
    (v.schedule = [] → v.repeats = [] →
      s.nextEvent = (Config.event v.turn, { s with environment := { v with turn := v.turn + 1 } }))

/-! ## Faults -/

/-- FetchOutOfRange (rule R162, decision D12): `pc` above 0xFFE latches code 4 and opcode 0, and nothing else
changes, `pc` included. -/
def Obligations.FetchOutOfRangeFault : Prop :=
  ∀ s u : State, s.nextEvent = (.step, u) → u.running → 0x0FFE < u.pc.toNat →
    ∃ t, step s = .next t ∧ t.fault.code.number = 4 ∧ t.fault.opcode = 0 ∧
      OnlyChanges { u with loadWindow := false } t theLatch

/-- IllegalOpcode (rule R161, decision D9): a fetched word that matches no pattern latches code 1 and the raw
word; `pc` stays advanced; nothing else changes. -/
def Obligations.IllegalOpcodeFault : Prop :=
  ∀ s u : State, s.nextEvent = (.step, u) → u.running → u.pc.toNat ≤ 0x0FFE →
    wellFormedWord u.fetchWord = false →
    ∃ t, step s = .next t ∧ t.fault.code.number = 1 ∧ t.fault.opcode = u.fetchWord ∧
      t.pc.toNat = u.pc.toNat + 2 ∧
      OnlyChanges { u with loadWindow := false } t ({.pc} ∪ theLatch)

/-- The faults are exactly five, each raised by a STEP under the condition of its row in the table of rule
R160, with the opcode of that row; no other event and no other instruction raises one. `u` is the running
core the STEP starts from. -/
def Obligations.FaultsAreExactlyTheFive : Prop :=
  ∀ (s u t : State) (e : Event), s.nextEvent = (e, u) → u.running → step s = .next t → ¬ t.running →
    e = .step ∧
      ((t.fault.code.number = 1 ∧ u.pc.toNat ≤ 0x0FFE ∧ wellFormedWord u.fetchWord = false ∧
          t.fault.opcode = u.fetchWord) ∨
        (t.fault.code.number = 2 ∧ u.pc.toNat ≤ 0x0FFE ∧
          (∃ nnn, decodeWord u.fetchWord = .ok (.call nnn)) ∧
          u.sp.val = 16 ∧ t.fault.opcode = u.fetchWord) ∨
        (t.fault.code.number = 3 ∧ u.pc.toNat ≤ 0x0FFE ∧ u.fetchWord = 0x00EE ∧ u.sp.val = 0 ∧
          t.fault.opcode = 0x00EE) ∨
        (t.fault.code.number = 4 ∧ 0x0FFE < u.pc.toNat ∧ t.fault.opcode = 0) ∨
        (t.fault.code.number = 5 ∧ u.pc.toNat ≤ 0x0FFE ∧
          (∃ x, (decodeWord u.fetchWord = .ok (.skp x) ∨ decodeWord u.fetchWord = .ok (.sknp x)) ∧
            15 < (u.reg x).toNat) ∧
          t.fault.opcode = u.fetchWord))

/-- Fault entry (rule R166, decisions D7 and D9): a STEP that faults writes the latch, and `pc` which the fetch
had advanced; nothing else changes. A fetch fault latches opcode 0 and leaves `pc`; the others latch the fetched
word. -/
def Obligations.FaultEntryWritesTheLatchAlone : Prop :=
  ∀ s u t : State, s.nextEvent = (.step, u) → u.running → step s = .next t → ¬ t.running →
    (t.fault.code.number = 4 → t.fault.opcode = 0 ∧ t.pc = u.pc) ∧
    (t.fault.code.number ≠ 4 → t.fault.opcode = u.fetchWord ∧ t.pc.toNat = u.pc.toNat + 2) ∧
    OnlyChanges { u with loadWindow := false } t ({.pc} ∪ theLatch)

/-- The halted core (rule R167, decision D7): a STEP changes nothing at all; TICK and KEYS act as usual; OBSERVE
changes nothing and shows the latch and all other state; LOAD is refused. `u` is the state that waits for
the event. -/
def Obligations.HaltedCoreTakesNoStep : Prop :=
  ∀ (s u : State) (e : Event), s.nextEvent = (e, u) → ¬ u.running →
    (e = .step → step s = .next u) ∧
    (e = .observe → step s = .next u ∧ ∀ p, p ≠ .draws → u.observe.get p = some (u.get p)) ∧
    (∀ image, e = .load image → step s = .next u) ∧
    (e = .tick → ∃ t, step s = .next t ∧ t.dt.toNat = u.dt.toNat - 1 ∧ t.st.toNat = u.st.toNat - 1 ∧
      OnlyChanges u t {.dt, .st}) ∧
    (∀ k, e = .keys k → ∃ t, step s = .next t ∧ t.keys = k ∧
      OnlyChanges u t {q | ∃ j, q = .key j})

/-- The only way out of the halted state is RESET, and RESET is one: every other event leaves the latch as it is
(rule R168, decision D7). -/
def Obligations.OnlyResetClearsTheLatch : Prop :=
  ∀ (s u t : State) (e : Event), s.nextEvent = (e, u) → ¬ u.running → step s = .next t →
    (e ≠ .reset → t.fault = u.fault) ∧ (e = .reset → t.running)

/-! ## Events -/

/-- The state after RESET (rule R29), for any FONT: the zeros are decision D16 of the spec. A LOAD of an image then
changes the bytes of the image alone. `State.reset` is the instance at the default FONT of rule R43 (log entry 1),
whose bytes no clause names. -/
def Obligations.ResetStateHoldsTheTableOfValues : Prop :=
  ∀ font : Font,
    (State.resetWith font).pc = 0x0200 ∧ (State.resetWith font).sp.val = 0 ∧
    (∀ a : Addr, (h : a.toNat < 80) → (State.resetWith font).readByte a = font[a.toNat]) ∧
    (∀ a : Addr, 80 ≤ a.toNat → (State.resetWith font).readByte a = 0) ∧
    (∀ r, (State.resetWith font).reg r = 0) ∧ (State.resetWith font).index = 0 ∧
    (∀ k : Fin 16, (State.resetWith font).stack[k] = 0) ∧
    (State.resetWith font).dt = 0 ∧ (State.resetWith font).st = 0 ∧
    (∀ p < 2048, (State.resetWith font).pixel p = false) ∧ (State.resetWith font).keys = 0 ∧
    (State.resetWith font).fault = ⟨.none, 0⟩ ∧
    State.reset = State.resetWith defaultFont ∧
    ∀ image : List Byte, image.length ≤ 3584 →
      (∀ i, (h : i < image.length) →
        ((State.resetWith font).loadEvent image).readByte (BitVec.ofNat 12 (0x200 + i)) = image[i]) ∧
      ∀ a : Addr, a.toNat < 0x200 ∨ 0x200 + image.length ≤ a.toNat →
        ((State.resetWith font).loadEvent image).readByte a = (State.resetWith font).readByte a

/-- RESET puts every piece of state to its reset value whatever it held before, running or halted, with the same
FONT (rule R190, zeros by decision D16); `draws` is no state of the core. -/
def Obligations.ResetEventRestoresEveryPiece : Prop :=
  ∀ s u : State, s.nextEvent = (.reset, u) →
    ∃ t, step s = .next t ∧ (∀ p, p ≠ .draws → t.get p = (State.resetWith u.font).get p) ∧
      t.font = u.font

/-- TICK (rule R175, decision D19): each timer down by one, not below 0; nothing else changes; in every
state. -/
def Obligations.TickDecrementsBothTimers : Prop :=
  ∀ s u : State, s.nextEvent = (.tick, u) →
    ∃ t, step s = .next t ∧ t.dt.toNat = u.dt.toNat - 1 ∧ t.st.toNat = u.st.toNat - 1 ∧
      OnlyChanges u t {.dt, .st}

/-- The delay timer rises only in a STEP that executes Fx15, the sound timer only in one that executes Fx18
(consequences in rule R175). -/
def Obligations.TimersRiseOnlyByTheirInstruction : Prop :=
  ∀ (s u t : State) (e : Event), s.nextEvent = (e, u) → step s = .next t →
    (u.dt.toNat < t.dt.toNat → e = .step ∧ ∃ x, decodeWord u.fetchWord = .ok (.ldDtVx x)) ∧
    (u.st.toNat < t.st.toNat → e = .step ∧ ∃ x, decodeWord u.fetchWord = .ok (.ldStVx x))

/-- KEYS(k) (rule R177, decision D20): flag i becomes bit i of k, all 16 at once; nothing else changes; in every
state. -/
def Obligations.KeysEventReplacesAllFlags : Prop :=
  ∀ (s u : State) (k : BitVec 16), s.nextEvent = (.keys k, u) →
    ∃ t, step s = .next t ∧ (∀ i < 16, t.keyDown i = k.getLsbD i) ∧
      OnlyChanges u t {q | ∃ j, q = .key j}

/-- LOAD inside its window (rule R192, decision D23): an image of at most 3584 bytes stands at 0x200 upward and
nothing else of the core changes. A longer image is refused: nothing changes. -/
def Obligations.LoadCopiesTheImage : Prop :=
  ∀ (s u : State) (image : List Byte), s.nextEvent = (.load image, u) → u.running → u.loadWindow = true →
    (image.length ≤ 3584 → ∃ t, step s = .next t ∧
      (∀ i, (h : i < image.length) → t.readByte (BitVec.ofNat 12 (0x200 + i)) = image[i]) ∧
      OnlyChanges u { t with loadWindow := u.loadWindow }
        {q | ∃ i, i < image.length ∧ q = .byte (BitVec.ofNat 12 (0x200 + i))}) ∧
    (3584 < image.length → step s = .next u)

/-- The boot order (rule R193, decision D23): RESET opens the window in which LOAD is accepted; a LOAD that is
accepted and the first STEP of a running core close it; TICK, KEYS and OBSERVE do not; a LOAD outside it, or into
a halted core, changes nothing. The window is the model's bit of log entry 4. -/
def Obligations.LoadIsAcceptedOnlyInItsWindow : Prop :=
  ∀ (s u : State) (e : Event), s.nextEvent = (e, u) →
    (∀ image, e = .load image → u.loadWindow = false ∨ ¬ u.running → step s = .next u) ∧
    ∀ t, step s = .next t →
      (e = .reset → t.loadWindow = true) ∧
      (∀ image, e = .load image → u.running → image.length ≤ 3584 → t.loadWindow = false) ∧
      (e = .step → u.running → t.loadWindow = false) ∧
      (e = .tick ∨ e = .observe ∨ (∃ k, e = .keys k) → t.loadWindow = u.loadWindow)

/-- The entry point (rule R191): after RESET and the LOAD of an image of two bytes or more, the first STEP executes
the word that the first two bytes of the image make, high byte first, with `pc` advanced to 0x202, whatever the host
does after it. -/
def Obligations.FirstStepRunsTheImage : Prop :=
  ∀ (font : Font) (v : Environment) (d : Nat) (hi lo : Byte) (rest : List Byte) (i : Instr),
    (hi :: lo :: rest).length ≤ 3584 → decodeWord (hi ++ lo) = .ok i →
    ∃ t, step ({ State.resetWith font with environment := v, draws := d }.withEvents
        [.load (hi :: lo :: rest), .step]) = .next t ∧
      step t = exec i { t with pc := 0x0202, loadWindow := false, environment := v }

/-- OBSERVE changes nothing and shows the host every piece of the state of the core, running or halted: registers,
I, pc, stack, SP, timers, pixels, keys, every byte of memory and the latch (rules R28, R54, R178). The form of what it
shows is the model's, log entry 11. -/
def Obligations.ObserveShowsEveryPieceAndChangesNothing : Prop :=
  ∀ s u : State, s.nextEvent = (.observe, u) →
    step s = .next u ∧ ∀ p, p ≠ .draws → u.observe.get p = some (u.get p)

/-! ## The machine as a whole -/

/-- Every event keeps the invariant: canonical memory, `pc` at most 0x1002, return addresses at most 0x1000, a
latch that agrees with the state, an untouched core while LOAD is accepted. -/
def Obligations.EveryStepKeepsTheInvariant : Prop :=
  ∀ s t : State, s.Inv → step s = .next t → t.Inv

/-- The reset state has the invariant, whatever FONT is. -/
def Obligations.ResetHasTheInvariant : Prop :=
  ∀ font : Font, (State.resetWith font).Inv

/-- The frame rule (rule R7, decision D6): an instruction changes only what its rule's pseudocode assigns. -/
def Obligations.InstructionsChangeOnlyWhatTheyAssign : Prop :=
  ∀ (i : Instr) (s t : State), exec i s = .next t → OnlyChanges s t (writes s i)

/-- VF is the flag register (rule R11): 8xy4 to 8xy7, 8xyE and Dxyn leave it 0 or 1, and every other instruction
leaves it unchanged unless VF is its named destination (decision D6). -/
def Obligations.FlagRegisterIsWrittenByItsSixInstructions : Prop :=
  ∀ (i : Instr) (s t : State), exec i s = .next t →
    (writesFlag i = true → (t.reg 0xF#4).toNat ≤ 1) ∧
    (writesFlag i = false → namesDestination 0xF#4 i = false → t.reg 0xF#4 = s.reg 0xF#4)

/-- The random byte is read only by Cxnn: any other instruction does the same whichever byte comes next (rules
R80, R179). -/
def Obligations.RandomByteIsReadOnlyByRnd : Prop :=
  ∀ (i : Instr) (s t : State) (d : Nat), (∀ x nn, i ≠ .rnd x nn) → exec i s = .next t →
    exec i { s with draws := d } = .next { t with draws := d }

/-! ## Control flow -/

/-- 1nnn (rule R82): `pc <- zext_16(nnn)`, any target, and nothing else. -/
def Obligations.JumpSetsThePc : Prop :=
  ∀ (s : State) (nnn : Addr),
    ∃ t, exec (.jp nnn) s = .next t ∧ t.pc.toNat = nnn.toNat ∧ OnlyChanges s t {.pc}

/-- 2nnn (rules R83, R85): on a stack that is not full the advanced `pc` is pushed, `SP` goes up by one, `pc`
becomes nnn, and nothing else changes. On a full stack StackOverflow (rule R163, decisions D9 and D11): the latch
takes code 2 and the word 0x2nnn, and nothing else changes, `pc` staying after the call. -/
def Obligations.CallPushesThePcOrOverflows : Prop :=
  (∀ (s : State) (nnn : Addr) (k : Fin 16), k.val = s.sp.val →
    ∃ t, exec (.call nnn) s = .next t ∧ t.stack[k] = s.pc ∧ t.sp.val = s.sp.val + 1 ∧
      t.pc.toNat = nnn.toNat ∧ OnlyChanges s t {.pc, .sp, .stack k}) ∧
  (∀ (s : State) (nnn : Addr), s.sp.val = 16 →
    ∃ t, exec (.call nnn) s = .next t ∧ t.fault.code.number = 2 ∧
      t.fault.opcode.toNat = 0x2000 + nnn.toNat ∧ OnlyChanges s t theLatch)

/-- 00EE (rules R84, R86): on a stack that is not empty `SP` goes down by one and `pc` becomes what the slot it
then names holds; the slot keeps its value and nothing else changes. On an empty stack StackUnderflow (rule R164,
decisions D9 and D11): the latch takes code 3 and the word 0x00EE, and nothing else changes. -/
def Obligations.RetPopsThePcOrUnderflows : Prop :=
  (∀ (s : State) (k : Fin 16), k.val + 1 = s.sp.val →
    ∃ t, exec .ret s = .next t ∧ t.sp.val = k.val ∧ t.pc = s.stack[k] ∧ OnlyChanges s t {.pc, .sp}) ∧
  (∀ s : State, s.sp.val = 0 →
    ∃ t, exec .ret s = .next t ∧ t.fault.code.number = 3 ∧ t.fault.opcode = 0x00EE ∧
      OnlyChanges s t theLatch)

/-- A call and the return of what it called come back to the instruction after the call, at the depth before
it (source example S4; rules R85, R86), whatever the subroutine did but change the stack. -/
def Obligations.CallThenRetComesBack : Prop :=
  ∀ (s t u : State) (nnn : Addr), s.sp.val < 16 → exec (.call nnn) s = .next t →
    u.sp = t.sp → u.stack = t.stack →
    ∃ w, exec .ret u = .next w ∧ w.pc = s.pc ∧ w.sp = s.sp

/-- The four skips on registers (rules R87 to R90): `pc` goes on by 2 more exactly when the condition holds;
nothing else changes. -/
def Obligations.RegisterSkipsAdvanceThePc : Prop :=
  (∀ (s : State) (x : Reg) (nn : Byte), ∃ t, exec (.seVxNn x nn) s = .next t ∧
    t.pc.toNat = (if (s.reg x).toNat = nn.toNat then s.pc.toNat + 2 else s.pc.toNat) % 65536 ∧
    OnlyChanges s t {.pc}) ∧
  (∀ (s : State) (x : Reg) (nn : Byte), ∃ t, exec (.sneVxNn x nn) s = .next t ∧
    t.pc.toNat = (if (s.reg x).toNat ≠ nn.toNat then s.pc.toNat + 2 else s.pc.toNat) % 65536 ∧
    OnlyChanges s t {.pc}) ∧
  (∀ (s : State) (x y : Reg), ∃ t, exec (.seVxVy x y) s = .next t ∧
    t.pc.toNat = (if (s.reg x).toNat = (s.reg y).toNat then s.pc.toNat + 2 else s.pc.toNat) % 65536 ∧
    OnlyChanges s t {.pc}) ∧
  (∀ (s : State) (x y : Reg), ∃ t, exec (.sneVxVy x y) s = .next t ∧
    t.pc.toNat = (if (s.reg x).toNat ≠ (s.reg y).toNat then s.pc.toNat + 2 else s.pc.toNat) % 65536 ∧
    OnlyChanges s t {.pc})

/-- A jump to its own address changes no piece of state, STEP after STEP (rules R82, R194). -/
def Obligations.SelfJumpIdles : Prop :=
  ∀ (s u : State) (nnn : Addr), s.nextEvent = (.step, u) → u.running → u.pc.toNat ≤ 0x0FFE →
    u.pc.toNat = nnn.toNat → decodeWord u.fetchWord = .ok (.jp nnn) →
    ∃ t, step s = .next t ∧ OnlyChanges { u with loadWindow := false } t ∅

/-- Even code stays even: from an even `pc` with even return addresses, an event whose fetched word is no jump or
call to an odd target leaves `pc` and the return addresses even (rule R48, decision D13). -/
def Obligations.EvenTargetsKeepThePcEven : Prop :=
  ∀ s t : State, s.pcEven →
    (∀ nnn, (decodeWord s.fetchWord = .ok (.jp nnn) ∨ decodeWord s.fetchWord = .ok (.call nnn)) →
      nnn.toNat % 2 = 0) →
    step s = .next t → t.pcEven

/-! ## Loads and the index register -/

/-- 6xnn (rule R100). -/
def Obligations.LoadImmediateSetsVx : Prop :=
  ∀ (s : State) (x : Reg) (nn : Byte),
    ∃ t, exec (.ldVxNn x nn) s = .next t ∧ t.reg x = nn ∧ OnlyChanges s t {.v x}

/-- 7xnn (rule R101): the sum modulo 256; VF is not written unless it is the destination. -/
def Obligations.AddImmediateWraps : Prop :=
  ∀ (s : State) (x : Reg) (nn : Byte),
    ∃ t, exec (.addVxNn x nn) s = .next t ∧ (t.reg x).toNat = ((s.reg x).toNat + nn.toNat) % 256 ∧
      OnlyChanges s t {.v x}

/-- Annn (rule R102): `I <- zext_16(nnn)`. -/
def Obligations.LoadIndexSetsI : Prop :=
  ∀ (s : State) (nnn : Addr),
    ∃ t, exec (.ldINnn nnn) s = .next t ∧ t.index.toNat = nnn.toNat ∧ OnlyChanges s t {.index}

/-- Fx1E (rule R103, decision D2): the sum modulo 65536; VF is never written. -/
def Obligations.AddToIndexWraps : Prop :=
  ∀ (s : State) (x : Reg),
    ∃ t, exec (.addIVx x) s = .next t ∧ t.index.toNat = (s.index.toNat + (s.reg x).toNat) % 65536 ∧
      OnlyChanges s t {.index}

/-- Fx29 (rule R104, decision D15 above 0xF): five times the whole byte, not masked. -/
def Obligations.LoadGlyphAddress : Prop :=
  ∀ (s : State) (x : Reg),
    ∃ t, exec (.ldFVx x) s = .next t ∧ t.index.toNat = (s.reg x).toNat * 5 ∧ OnlyChanges s t {.index}

/-- Cxnn (rule R105, decision D21): the next random byte, whatever it is, masked by nn; the next execution
draws another one. The random byte is the model's free value of log entry 2. -/
def Obligations.RandomIsMasked : Prop :=
  ∀ (s : State) (x : Reg) (nn : Byte),
    ∃ t, exec (.rnd x nn) s = .next t ∧ t.reg x = (Config.rnd s.draws &&& nn) ∧
      (∀ b : Nat, nn.getLsbD b = false → (t.reg x).getLsbD b = false) ∧
      t.draws = s.draws + 1 ∧ OnlyChanges s t {.v x, .draws}

/-! ## The ALU family -/

/-- 8xy0 to 8xy3 (rules R111 to R114): copy, OR, AND, XOR, bit by bit, from the old values; VF is not written
unless it is the destination (decision D6). -/
def Obligations.CopyAndBitwiseSetVx : Prop :=
  ∀ (s : State) (x y : Reg),
    (∃ t, exec (.ldVxVy x y) s = .next t ∧ t.reg x = s.reg y ∧ OnlyChanges s t {.v x}) ∧
    (∃ t, exec (.or x y) s = .next t ∧
      (∀ b < 8, (t.reg x).getLsbD b = ((s.reg x).getLsbD b || (s.reg y).getLsbD b)) ∧
      OnlyChanges s t {.v x}) ∧
    (∃ t, exec (.and x y) s = .next t ∧
      (∀ b < 8, (t.reg x).getLsbD b = ((s.reg x).getLsbD b && (s.reg y).getLsbD b)) ∧
      OnlyChanges s t {.v x}) ∧
    (∃ t, exec (.xor x y) s = .next t ∧
      (∀ b < 8, (t.reg x).getLsbD b = ((s.reg x).getLsbD b ^^ (s.reg y).getLsbD b)) ∧
      OnlyChanges s t {.v x})

/-- 8xy4 (rules R110, R115, decision D4): the sum modulo 256 to `V[x]`, then the carry out to VF; with x = 0xF
the sum is lost. -/
def Obligations.AddSetsTheCarry : Prop :=
  ∀ (s : State) (x y : Reg),
    ∃ t, exec (.addVxVy x y) s = .next t ∧
      (x ≠ 0xF#4 → (t.reg x).toNat = ((s.reg x).toNat + (s.reg y).toNat) % 256) ∧
      (t.reg 0xF#4).toNat = (if (s.reg x).toNat + (s.reg y).toNat > 255 then 1 else 0) ∧
      OnlyChanges s t {.v x, .v 0xF#4}

/-- 8xy5 (rules R110, R116, decision D4): the difference modulo 256 to `V[x]`, then 1 to VF when there is no
borrow, else 0. -/
def Obligations.SubSetsNoBorrow : Prop :=
  ∀ (s : State) (x y : Reg),
    ∃ t, exec (.sub x y) s = .next t ∧
      (x ≠ 0xF#4 → ((t.reg x).toNat : Int) = (((s.reg x).toNat : Int) - (s.reg y).toNat) % 256) ∧
      (t.reg 0xF#4).toNat = (if (s.reg x).toNat ≥ (s.reg y).toNat then 1 else 0) ∧
      OnlyChanges s t {.v x, .v 0xF#4}

/-- 8xy7 (rules R110, R118, decision D4): the reverse difference modulo 256 to `V[x]`, then 1 to VF when there
is no borrow, else 0. -/
def Obligations.SubnSetsNoBorrow : Prop :=
  ∀ (s : State) (x y : Reg),
    ∃ t, exec (.subn x y) s = .next t ∧
      (x ≠ 0xF#4 → ((t.reg x).toNat : Int) = (((s.reg y).toNat : Int) - (s.reg x).toNat) % 256) ∧
      (t.reg 0xF#4).toNat = (if (s.reg y).toNat ≥ (s.reg x).toNat then 1 else 0) ∧
      OnlyChanges s t {.v x, .v 0xF#4}

/-- 8xy6 (rules R110, R117, decisions D3 and D4): `V[x]` shifted right in place, whatever y is; VF is the old
bit 0. -/
def Obligations.ShiftRightSetsTheBitShiftedOut : Prop :=
  ∀ (s : State) (x y : Reg),
    ∃ t, exec (.shr x y) s = .next t ∧
      (x ≠ 0xF#4 → (t.reg x).toNat = (s.reg x).toNat / 2) ∧
      (t.reg 0xF#4).toNat = (s.reg x).toNat % 2 ∧
      OnlyChanges s t {.v x, .v 0xF#4}

/-- 8xyE (rules R110, R119, decisions D3 and D4): `V[x]` shifted left in place, whatever y is; VF is the old bit
7. -/
def Obligations.ShiftLeftSetsTheBitShiftedOut : Prop :=
  ∀ (s : State) (x y : Reg),
    ∃ t, exec (.shl x y) s = .next t ∧
      (x ≠ 0xF#4 → (t.reg x).toNat = (s.reg x).toNat * 2 % 256) ∧
      (t.reg 0xF#4).toNat = (s.reg x).toNat / 128 ∧
      OnlyChanges s t {.v x, .v 0xF#4}

/-! ## The display -/

/-- 00E0 (rule R130): every pixel 0, and nothing else changes, VF included. -/
def Obligations.ClsClearsTheDisplay : Prop :=
  ∀ s : State, ∃ t, exec .cls s = .next t ∧ (∀ p < 2048, t.pixel p = false) ∧ OnlyChanges s t allPixels

/-- Dxyn (rule R131, decision D5): the origin is `(V[x] mod 64, V[y] mod 32)` from the old registers; a pixel
is toggled exactly when a set bit of the sprite falls on it; what falls outside the grid is dropped; VF is 1 if
such a pixel was lit, else 0; nothing else changes. -/
def Obligations.DrawXorsTheSprite : Prop :=
  ∀ (s : State) (x y : Reg) (n : Nibble),
    ∃ t, exec (.drw x y n) s = .next t ∧
      (∀ p < 2048, t.pixel p = (s.pixel p ^^
        spriteCovers s ((s.reg x).toNat % 64) ((s.reg y).toNat % 32) n.toNat (p % 64) (p / 64))) ∧
      ((∃ p < 2048, s.pixel p = true ∧
          spriteCovers s ((s.reg x).toNat % 64) ((s.reg y).toNat % 32) n.toNat (p % 64) (p / 64) = true) →
        t.reg 0xF#4 = 1) ∧
      ((∀ p < 2048, s.pixel p = true →
          spriteCovers s ((s.reg x).toNat % 64) ((s.reg y).toNat % 32) n.toNat (p % 64) (p / 64) = false) →
        t.reg 0xF#4 = 0) ∧
      OnlyChanges s t ({.v 0xF#4} ∪ allPixels)

/-- Drawing the same sprite bytes twice at the same origin (rule R132, conflict C3): the display is as it was
before the first draw; if the first draw met no lit pixel and a set bit of the sprite falls on the grid, the
second sets VF; it leaves VF 0 exactly when every pixel the sprite falls on was lit before the first draw. `u`
is the core at the second draw: the display of `t`, the sprite and origin of the first. -/
def Obligations.DrawingTwiceRestoresTheDisplay : Prop :=
  ∀ (s t u : State) (x y x' y' : Reg) (n : Nibble), exec (.drw x y n) s = .next t →
    u.display = t.display → u.index = s.index → (∀ a, u.readByte a = s.readByte a) →
    (u.reg x').toNat % 64 = (s.reg x).toNat % 64 → (u.reg y').toNat % 32 = (s.reg y).toNat % 32 →
    ∃ w, exec (.drw x' y' n) u = .next w ∧ (∀ p < 2048, w.pixel p = s.pixel p) ∧
      (t.reg 0xF#4 = 0 →
        (∃ p < 2048, spriteCovers s ((s.reg x).toNat % 64) ((s.reg y).toNat % 32) n.toNat (p % 64)
          (p / 64) = true) → w.reg 0xF#4 = 1) ∧
      (w.reg 0xF#4 = 0 ↔
        ∀ p < 2048, spriteCovers s ((s.reg x).toNat % 64) ((s.reg y).toNat % 32) n.toNat (p % 64)
          (p / 64) = true → s.pixel p = true)

/-! ## Keys and timers -/

/-- Ex9E and ExA1 (rules R140, R141): with a key index of at most 15 `pc` goes on by 2 more exactly when the key
is pressed, or is not, and nothing else changes. With an index above 15 KeyIndexOutOfRange (rule R165, decisions
D9 and D14): the latch takes code 5 and the instruction's word, there is no skip and nothing else changes. -/
def Obligations.KeySkipsAdvanceThePcOrFault : Prop :=
  (∀ (s : State) (x : Reg), (s.reg x).toNat ≤ 15 →
    (∃ t, exec (.skp x) s = .next t ∧
      t.pc.toNat = (if s.keyDown (s.reg x).toNat = true then s.pc.toNat + 2 else s.pc.toNat) % 65536 ∧
      OnlyChanges s t {.pc}) ∧
    (∃ t, exec (.sknp x) s = .next t ∧
      t.pc.toNat = (if s.keyDown (s.reg x).toNat = false then s.pc.toNat + 2 else s.pc.toNat) % 65536 ∧
      OnlyChanges s t {.pc})) ∧
  (∀ (s : State) (x : Reg), 15 < (s.reg x).toNat →
    (∃ t, exec (.skp x) s = .next t ∧ t.fault.code.number = 5 ∧
      t.fault.opcode.toNat = 0xE09E + 256 * x.toNat ∧ OnlyChanges s t theLatch) ∧
    (∃ t, exec (.sknp x) s = .next t ∧ t.fault.code.number = 5 ∧
      t.fault.opcode.toNat = 0xE0A1 + 256 * x.toNat ∧ OnlyChanges s t theLatch))

/-- Fx0A (rule R142): with a key pressed the lowest pressed key goes to `V[x]`, `pc` stays advanced and nothing
else changes; with no key pressed `pc` goes back by 2 and nothing else changes. -/
def Obligations.KeyWaitTakesTheLowestKeyOrRewinds : Prop :=
  (∀ (s : State) (x : Reg) (k : Nat), k < 16 → s.keyDown k = true → (∀ j < k, s.keyDown j = false) →
    ∃ t, exec (.ldVxK x) s = .next t ∧ (t.reg x).toNat = k ∧ OnlyChanges s t {.v x}) ∧
  (∀ (s : State) (x : Reg), (∀ k < 16, s.keyDown k = false) →
    ∃ t, exec (.ldVxK x) s = .next t ∧ t.pc.toNat = (s.pc.toNat + 65536 - 2) % 65536 ∧
      OnlyChanges s t {.pc})

/-- Fx0A with no key pressed (rule R142, source example S7): the whole STEP changes no piece of state; the same
instruction is fetched again. -/
def Obligations.KeyWaitWithNoKeyRepeats : Prop :=
  ∀ (s u : State) (x : Reg), s.nextEvent = (.step, u) → u.running → u.pc.toNat ≤ 0x0FFE →
    decodeWord u.fetchWord = .ok (.ldVxK x) → (∀ k < 16, u.keyDown k = false) →
    ∃ t, step s = .next t ∧ t.pc = u.pc ∧ OnlyChanges { u with loadWindow := false } t ∅

/-- Fx07, Fx15, Fx18 (rules R143 to R145). -/
def Obligations.TimerTransfers : Prop :=
  ∀ (s : State) (x : Reg),
    (∃ t, exec (.ldVxDt x) s = .next t ∧ t.reg x = s.dt ∧ OnlyChanges s t {.v x}) ∧
    (∃ t, exec (.ldDtVx x) s = .next t ∧ t.dt = s.reg x ∧ OnlyChanges s t {.dt}) ∧
    (∃ t, exec (.ldStVx x) s = .next t ∧ t.st = s.reg x ∧ OnlyChanges s t {.st})

/-! ## Memory -/

/-- Fx33 (rule R150): the digits of `V[x]`, hundreds first, one a byte, at `EA(0)`, `EA(1)`, `EA(2)`; every other
byte and all else is unchanged. -/
def Obligations.BcdStoresThreeDigits : Prop :=
  ∀ (s : State) (x : Reg),
    ∃ t, exec (.ldBVx x) s = .next t ∧
      (t.readByte (s.ea 0)).toNat = (s.reg x).toNat / 100 ∧
      (t.readByte (s.ea 1)).toNat = (s.reg x).toNat / 10 % 10 ∧
      (t.readByte (s.ea 2)).toNat = (s.reg x).toNat % 10 ∧
      OnlyChanges s t (dataBytes s 3)

/-- Fx55 (rule R151, decision D6): `V[0]` to `V[x]` go to `EA(0)` to `EA(x)`; every other byte and all else is
unchanged, `I` included. -/
def Obligations.StoreRegistersFillsMemory : Prop :=
  ∀ (s : State) (x : Reg),
    ∃ t, exec (.ldMiVx x) s = .next t ∧
      (∀ r : Reg, r.toNat ≤ x.toNat → t.readByte (s.ea r.toNat) = s.reg r) ∧
      OnlyChanges s t (dataBytes s (x.toNat + 1))

/-- Fx65 (rule R152, decision D6): `V[0]` to `V[x]` come from `EA(0)` to `EA(x)`; the registers above x, memory
and all else are unchanged, `I` included. -/
def Obligations.LoadRegistersReadsMemory : Prop :=
  ∀ (s : State) (x : Reg),
    ∃ t, exec (.ldVxMi x) s = .next t ∧
      (∀ r : Reg, r.toNat ≤ x.toNat → t.reg r = s.readByte (s.ea r.toNat)) ∧
      OnlyChanges s t {q | ∃ r : Reg, r.toNat ≤ x.toNat ∧ q = .v r}

/-- Fx55 and then Fx65 with the same x and the same `I` restores the registers, whatever they held in between
(rule R152). -/
def Obligations.StoreThenLoadRestoresRegisters : Prop :=
  ∀ (s t u : State) (x : Reg), exec (.ldMiVx x) s = .next t →
    u.index = t.index → (∀ a, u.readByte a = t.readByte a) →
    ∃ w, exec (.ldVxMi x) u = .next w ∧ ∀ r : Reg, r.toNat ≤ x.toNat → w.reg r = s.reg r
end

