-- ==== Sys2Proof/Laws/Encoding.lean ====
section
/-! SUPPORT. The bits of an encoded word, its fields and its masks (rules R61, R62, R64). -/

namespace Sys2Proof.Laws

open Sys2Proof

/-! ## The bits of the three layouts -/

theorem getElem_packA (n1 : Nibble) (nnn : Addr) (i : Nat) (h : i < 16) :
    (packA n1 nnn)[i] = if i < 12 then nnn.getLsbD i else n1.getLsbD (i - 12) := by
  rw [← BitVec.getLsbD_eq_getElem]
  exact BitVec.getLsbD_append

theorem getElem_packI (n1 : Nibble) (x : Reg) (nn : Byte) (i : Nat) (h : i < 16) :
    (packI n1 x nn)[i] =
      if i < 8 then nn.getLsbD i else if i < 12 then x.getLsbD (i - 8) else n1.getLsbD (i - 12) := by
  rw [← BitVec.getLsbD_eq_getElem]
  refine (BitVec.getLsbD_append (x := n1) (y := x ++ nn)).trans ?_
  rw [BitVec.getLsbD_append]
  repeat' split
  all_goals first | rfl | omega

theorem getElem_packR (n1 : Nibble) (x y : Reg) (n : Nibble) (i : Nat) (h : i < 16) :
    (packR n1 x y n)[i] =
      if i < 4 then n.getLsbD i else if i < 8 then y.getLsbD (i - 4)
      else if i < 12 then x.getLsbD (i - 8) else n1.getLsbD (i - 12) := by
  rw [← BitVec.getLsbD_eq_getElem]
  refine (BitVec.getLsbD_append (x := n1) (y := x ++ (y ++ n))).trans ?_
  rw [BitVec.getLsbD_append, BitVec.getLsbD_append]
  repeat' split
  all_goals first | rfl | omega

theorem getElem_wordOfBytes (hi lo : Byte) (i : Nat) (h : i < 16) :
    (wordOfBytes hi lo)[i] = if i < 8 then lo.getLsbD i else hi.getLsbD (i - 8) := by
  rw [← BitVec.getLsbD_eq_getElem]
  exact BitVec.getLsbD_append

/-! ## Masks -/

theorem packA_and_major (n1 : Nibble) (nnn : Addr) : packA n1 nnn &&& 0xF000#16 = packA n1 0 := by
  apply BitVec.eq_of_getElem_eq
  intro i hi
  interval_cases i <;> simp [getElem_packA]

theorem packI_and_major (n1 : Nibble) (x : Reg) (nn : Byte) :
    packI n1 x nn &&& 0xF000#16 = packI n1 0 0 := by
  apply BitVec.eq_of_getElem_eq
  intro i hi
  interval_cases i <;> simp [getElem_packI]

theorem packI_and_function (n1 : Nibble) (x : Reg) (nn : Byte) :
    packI n1 x nn &&& 0xF0FF#16 = packI n1 0 nn := by
  apply BitVec.eq_of_getElem_eq
  intro i hi
  interval_cases i <;> simp [getElem_packI]

theorem packR_and_major (n1 : Nibble) (x y : Reg) (n : Nibble) :
    packR n1 x y n &&& 0xF000#16 = packR n1 0 0 0 := by
  apply BitVec.eq_of_getElem_eq
  intro i hi
  interval_cases i <;> simp [getElem_packR]

theorem packR_and_minor (n1 : Nibble) (x y : Reg) (n : Nibble) :
    packR n1 x y n &&& 0xF00F#16 = packR n1 0 0 n := by
  apply BitVec.eq_of_getElem_eq
  intro i hi
  interval_cases i <;> simp [getElem_packR]

/-! ## Fields of the layouts -/

@[simp] theorem opN1_packA (n1 : Nibble) (nnn : Addr) : opN1 (packA n1 nnn) = n1 := by
  apply BitVec.eq_of_getElem_eq
  intro i hi
  interval_cases i <;> simp [getElem_packA, opN1]

@[simp] theorem opNNN_packA (n1 : Nibble) (nnn : Addr) : opNNN (packA n1 nnn) = nnn := by
  apply BitVec.eq_of_getElem_eq
  intro i hi
  interval_cases i <;> simp [getElem_packA, opNNN]

@[simp] theorem opN1_packI (n1 : Nibble) (x : Reg) (nn : Byte) : opN1 (packI n1 x nn) = n1 := by
  apply BitVec.eq_of_getElem_eq
  intro i hi
  interval_cases i <;> simp [getElem_packI, opN1]

@[simp] theorem opX_packI (n1 : Nibble) (x : Reg) (nn : Byte) : opX (packI n1 x nn) = x := by
  apply BitVec.eq_of_getElem_eq
  intro i hi
  interval_cases i <;> simp [getElem_packI, opX]

@[simp] theorem opNN_packI (n1 : Nibble) (x : Reg) (nn : Byte) : opNN (packI n1 x nn) = nn := by
  apply BitVec.eq_of_getElem_eq
  intro i hi
  interval_cases i <;> simp [getElem_packI, opNN]

@[simp] theorem opN1_packR (n1 : Nibble) (x y : Reg) (n : Nibble) : opN1 (packR n1 x y n) = n1 := by
  apply BitVec.eq_of_getElem_eq
  intro i hi
  interval_cases i <;> simp [getElem_packR, opN1]

@[simp] theorem opX_packR (n1 : Nibble) (x y : Reg) (n : Nibble) : opX (packR n1 x y n) = x := by
  apply BitVec.eq_of_getElem_eq
  intro i hi
  interval_cases i <;> simp [getElem_packR, opX]

@[simp] theorem opY_packR (n1 : Nibble) (x y : Reg) (n : Nibble) : opY (packR n1 x y n) = y := by
  apply BitVec.eq_of_getElem_eq
  intro i hi
  interval_cases i <;> simp [getElem_packR, opY]

@[simp] theorem opN_packR (n1 : Nibble) (x y : Reg) (n : Nibble) : opN (packR n1 x y n) = n := by
  apply BitVec.eq_of_getElem_eq
  intro i hi
  interval_cases i <;> simp [getElem_packR, opN]

/-! ## A word is its fields -/

theorem packA_fields (w : Word) : packA (opN1 w) (opNNN w) = w := by
  apply BitVec.eq_of_getElem_eq
  intro i hi
  interval_cases i <;> simp [getElem_packA, opN1, opNNN]

theorem packI_fields (w : Word) : packI (opN1 w) (opX w) (opNN w) = w := by
  apply BitVec.eq_of_getElem_eq
  intro i hi
  interval_cases i <;> simp [getElem_packI, opN1, opX, opNN]

theorem packR_fields (w : Word) : packR (opN1 w) (opX w) (opY w) (opN w) = w := by
  apply BitVec.eq_of_getElem_eq
  intro i hi
  interval_cases i <;> simp [getElem_packR, opN1, opX, opY, opN]

theorem wordOfBytes_high_low (w : Word) : wordOfBytes (highByte w) (lowByte w) = w := by
  apply BitVec.eq_of_getElem_eq
  intro i hi
  interval_cases i <;> simp [getElem_wordOfBytes, highByte, lowByte]

/-! ## Fields as numbers -/

theorem toNat_opN1 (w : Word) : (opN1 w).toNat = w.toNat / 4096 := by
  have := w.isLt
  simp [opN1, Nat.shiftRight_eq_div_pow]
  omega

theorem toNat_opX (w : Word) : (opX w).toNat = w.toNat / 256 % 16 := by
  simp [opX, Nat.shiftRight_eq_div_pow]

theorem toNat_opY (w : Word) : (opY w).toNat = w.toNat / 16 % 16 := by
  simp [opY, Nat.shiftRight_eq_div_pow]

theorem toNat_opN (w : Word) : (opN w).toNat = w.toNat % 16 := by
  simp [opN]

theorem toNat_opNN (w : Word) : (opNN w).toNat = w.toNat % 256 := by
  simp [opNN]

theorem toNat_opNNN (w : Word) : (opNNN w).toNat = w.toNat % 4096 := by
  simp [opNNN]

/-! ## Decoding of bytes -/

theorem decode_bytes (hi lo : Byte) (rest : List Byte) :
    decode (hi :: lo :: rest) =
      match decodeWord (wordOfBytes hi lo) with
      | .ok i => .ok (i, rest)
      | .error e => .error e := rfl

end Sys2Proof.Laws
end

