-- ==== Sys2Proof/Laws/Decoding.lean ====
section
/-! SUPPORT. The decoder by major opcode: what decodeWord is for each value of n1, and that it never answers
truncated (rule R65). -/

namespace Sys2Proof.Laws

open Sys2Proof

/-! ## One equation per major opcode -/

theorem decodeWord_n1_0 {w : Word} (h : opN1 w = 0x0#4) :
    decodeWord w =
      decodeFamily0 w := by
  simp [decodeWord, h]

theorem decodeWord_n1_1 {w : Word} (h : opN1 w = 0x1#4) :
    decodeWord w =
      .ok (.jp (opNNN w)) := by
  simp [decodeWord, h]

theorem decodeWord_n1_2 {w : Word} (h : opN1 w = 0x2#4) :
    decodeWord w =
      .ok (.call (opNNN w)) := by
  simp [decodeWord, h]

theorem decodeWord_n1_3 {w : Word} (h : opN1 w = 0x3#4) :
    decodeWord w =
      .ok (.seVxNn (opX w) (opNN w)) := by
  simp [decodeWord, h]

theorem decodeWord_n1_4 {w : Word} (h : opN1 w = 0x4#4) :
    decodeWord w =
      .ok (.sneVxNn (opX w) (opNN w)) := by
  simp [decodeWord, h]

theorem decodeWord_n1_5 {w : Word} (h : opN1 w = 0x5#4) :
    decodeWord w =
      if opN w = 0x0#4 then .ok (.seVxVy (opX w) (opY w)) else .error (.illegal .family5) := by
  simp [decodeWord, h]

theorem decodeWord_n1_6 {w : Word} (h : opN1 w = 0x6#4) :
    decodeWord w =
      .ok (.ldVxNn (opX w) (opNN w)) := by
  simp [decodeWord, h]

theorem decodeWord_n1_7 {w : Word} (h : opN1 w = 0x7#4) :
    decodeWord w =
      .ok (.addVxNn (opX w) (opNN w)) := by
  simp [decodeWord, h]

theorem decodeWord_n1_8 {w : Word} (h : opN1 w = 0x8#4) :
    decodeWord w =
      decodeFamily8 (opX w) (opY w) (opN w) := by
  simp [decodeWord, h]

theorem decodeWord_n1_9 {w : Word} (h : opN1 w = 0x9#4) :
    decodeWord w =
      if opN w = 0x0#4 then .ok (.sneVxVy (opX w) (opY w)) else .error (.illegal .family9) := by
  simp [decodeWord, h]

theorem decodeWord_n1_A {w : Word} (h : opN1 w = 0xA#4) :
    decodeWord w =
      .ok (.ldINnn (opNNN w)) := by
  simp [decodeWord, h]

theorem decodeWord_n1_B {w : Word} (h : opN1 w = 0xB#4) :
    decodeWord w =
      .error (.illegal .familyB) := by
  simp [decodeWord, h]

theorem decodeWord_n1_C {w : Word} (h : opN1 w = 0xC#4) :
    decodeWord w =
      .ok (.rnd (opX w) (opNN w)) := by
  simp [decodeWord, h]

theorem decodeWord_n1_D {w : Word} (h : opN1 w = 0xD#4) :
    decodeWord w =
      .ok (.drw (opX w) (opY w) (opN w)) := by
  simp [decodeWord, h]

theorem decodeWord_n1_E {w : Word} (h : opN1 w = 0xE#4) :
    decodeWord w =
      decodeFamilyE (opX w) (opNN w) := by
  simp [decodeWord, h]

theorem decodeWord_n1_F {w : Word} (h : opN1 w = 0xF#4) :
    decodeWord w =
      decodeFamilyF (opX w) (opNN w) := by
  simp [decodeWord, h]

/-- The sixteen values of the major opcode. -/
theorem nibble_cases (n : Nibble) :
    n = 0x0#4 ∨ n = 0x1#4 ∨ n = 0x2#4 ∨ n = 0x3#4 ∨ n = 0x4#4 ∨ n = 0x5#4 ∨ n = 0x6#4 ∨ n = 0x7#4 ∨
      n = 0x8#4 ∨ n = 0x9#4 ∨ n = 0xA#4 ∨ n = 0xB#4 ∨ n = 0xC#4 ∨ n = 0xD#4 ∨ n = 0xE#4 ∨ n = 0xF#4 := by
  decide +revert

/-! ## What the families refuse -/

theorem decodeFamily0_error {w : Word} {e : DecodeReject} (h : decodeFamily0 w = .error e) :
    e = .illegal .family0 := by
  unfold decodeFamily0 at h
  repeat' split at h
  all_goals cases h
  rfl

theorem decodeFamily8_error {x y : Reg} {n : Nibble} {e : DecodeReject}
    (h : decodeFamily8 x y n = .error e) : e = .illegal .family8 := by
  unfold decodeFamily8 at h
  repeat' split at h
  all_goals cases h
  rfl

theorem decodeFamilyE_error {x : Reg} {nn : Byte} {e : DecodeReject}
    (h : decodeFamilyE x nn = .error e) : e = .illegal .familyE := by
  unfold decodeFamilyE at h
  repeat' split at h
  all_goals cases h
  rfl

theorem decodeFamilyF_error {x : Reg} {nn : Byte} {e : DecodeReject}
    (h : decodeFamilyF x nn = .error e) : e = .illegal .familyF := by
  unfold decodeFamilyF at h
  repeat' split at h
  all_goals cases h
  rfl

/-- A word that is refused is refused as an illegal word (rule R66). -/
theorem decodeWord_error {w : Word} {e : DecodeReject} (h : decodeWord w = .error e) :
    ∃ c, e = .illegal c := by
  rcases nibble_cases (opN1 w) with hn | hn | hn | hn | hn | hn | hn | hn | hn | hn | hn | hn | hn | hn |
    hn | hn
  · rw [decodeWord_n1_0 hn] at h
    exact ⟨_, decodeFamily0_error h⟩
  · rw [decodeWord_n1_1 hn] at h
    cases h
  · rw [decodeWord_n1_2 hn] at h
    cases h
  · rw [decodeWord_n1_3 hn] at h
    cases h
  · rw [decodeWord_n1_4 hn] at h
    cases h
  · rw [decodeWord_n1_5 hn] at h
    split at h <;> cases h
    exact ⟨_, rfl⟩
  · rw [decodeWord_n1_6 hn] at h
    cases h
  · rw [decodeWord_n1_7 hn] at h
    cases h
  · rw [decodeWord_n1_8 hn] at h
    exact ⟨_, decodeFamily8_error h⟩
  · rw [decodeWord_n1_9 hn] at h
    split at h <;> cases h
    exact ⟨_, rfl⟩
  · rw [decodeWord_n1_A hn] at h
    cases h
  · rw [decodeWord_n1_B hn] at h
    cases h
    exact ⟨_, rfl⟩
  · rw [decodeWord_n1_C hn] at h
    cases h
  · rw [decodeWord_n1_D hn] at h
    cases h
  · rw [decodeWord_n1_E hn] at h
    exact ⟨_, decodeFamilyE_error h⟩
  · rw [decodeWord_n1_F hn] at h
    exact ⟨_, decodeFamilyF_error h⟩

end Sys2Proof.Laws
end

