-- ==== Sys2Proof/Laws/State.lean ====
section
/-! SUPPORT. The small lemmas of State: one per field per update, and one per view (a register, a byte, a
pixel, a key, an address) per update that leaves it alone. All hold by rfl, so that no later proof
unfolds a record update. -/

namespace Sys2Proof.Machine

variable (s : State)

/-! ## setReg -/

@[simp] theorem State.setReg_index (r : Reg) (b : Byte) : (s.setReg r b).index = s.index := rfl
@[simp] theorem State.setReg_pc (r : Reg) (b : Byte) : (s.setReg r b).pc = s.pc := rfl
@[simp] theorem State.setReg_stack (r : Reg) (b : Byte) : (s.setReg r b).stack = s.stack := rfl
@[simp] theorem State.setReg_sp (r : Reg) (b : Byte) : (s.setReg r b).sp = s.sp := rfl
@[simp] theorem State.setReg_dt (r : Reg) (b : Byte) : (s.setReg r b).dt = s.dt := rfl
@[simp] theorem State.setReg_st (r : Reg) (b : Byte) : (s.setReg r b).st = s.st := rfl
@[simp] theorem State.setReg_display (r : Reg) (b : Byte) : (s.setReg r b).display = s.display := rfl
@[simp] theorem State.setReg_keys (r : Reg) (b : Byte) : (s.setReg r b).keys = s.keys := rfl
@[simp] theorem State.setReg_mem (r : Reg) (b : Byte) : (s.setReg r b).mem = s.mem := rfl
@[simp] theorem State.setReg_fault (r : Reg) (b : Byte) : (s.setReg r b).fault = s.fault := rfl
@[simp] theorem State.setReg_font (r : Reg) (b : Byte) : (s.setReg r b).font = s.font := rfl
@[simp] theorem State.setReg_loadWindow (r : Reg) (b : Byte) : (s.setReg r b).loadWindow = s.loadWindow := rfl
@[simp] theorem State.setReg_draws (r : Reg) (b : Byte) : (s.setReg r b).draws = s.draws := rfl
@[simp] theorem State.setReg_environment (r : Reg) (b : Byte) : (s.setReg r b).environment = s.environment := rfl
@[simp] theorem State.setReg_readByte (r : Reg) (b : Byte) (p : Addr) : (s.setReg r b).readByte p = s.readByte p := rfl
@[simp] theorem State.setReg_ea (r : Reg) (b : Byte) (off : Nat) : (s.setReg r b).ea off = s.ea off := rfl
@[simp] theorem State.setReg_pixel (r : Reg) (b : Byte) (p : Nat) : (s.setReg r b).pixel p = s.pixel p := rfl
@[simp] theorem State.setReg_keyDown (r : Reg) (b : Byte) (j : Nat) : (s.setReg r b).keyDown j = s.keyDown j := rfl
@[simp] theorem State.setReg_firstKey (r : Reg) (b : Byte) : (s.setReg r b).firstKey = s.firstKey := rfl
@[simp] theorem State.setReg_halted (r : Reg) (b : Byte) : (s.setReg r b).halted = s.halted := rfl
@[simp] theorem State.setReg_rnd (r : Reg) (b : Byte) : (s.setReg r b).rnd = s.rnd := rfl
@[simp] theorem State.setReg_fetchable (r : Reg) (b : Byte) : (s.setReg r b).fetchable = s.fetchable := rfl
@[simp] theorem State.setReg_fetchWord (r : Reg) (b : Byte) : (s.setReg r b).fetchWord = s.fetchWord := rfl

/-! ## setIndex -/

@[simp] theorem State.setIndex_v (w : Word) : (s.setIndex w).v = s.v := rfl
@[simp] theorem State.setIndex_index (w : Word) : (s.setIndex w).index = w := rfl
@[simp] theorem State.setIndex_pc (w : Word) : (s.setIndex w).pc = s.pc := rfl
@[simp] theorem State.setIndex_stack (w : Word) : (s.setIndex w).stack = s.stack := rfl
@[simp] theorem State.setIndex_sp (w : Word) : (s.setIndex w).sp = s.sp := rfl
@[simp] theorem State.setIndex_dt (w : Word) : (s.setIndex w).dt = s.dt := rfl
@[simp] theorem State.setIndex_st (w : Word) : (s.setIndex w).st = s.st := rfl
@[simp] theorem State.setIndex_display (w : Word) : (s.setIndex w).display = s.display := rfl
@[simp] theorem State.setIndex_keys (w : Word) : (s.setIndex w).keys = s.keys := rfl
@[simp] theorem State.setIndex_mem (w : Word) : (s.setIndex w).mem = s.mem := rfl
@[simp] theorem State.setIndex_fault (w : Word) : (s.setIndex w).fault = s.fault := rfl
@[simp] theorem State.setIndex_font (w : Word) : (s.setIndex w).font = s.font := rfl
@[simp] theorem State.setIndex_loadWindow (w : Word) : (s.setIndex w).loadWindow = s.loadWindow := rfl
@[simp] theorem State.setIndex_draws (w : Word) : (s.setIndex w).draws = s.draws := rfl
@[simp] theorem State.setIndex_environment (w : Word) : (s.setIndex w).environment = s.environment := rfl
@[simp] theorem State.setIndex_reg (w : Word) (q : Reg) : (s.setIndex w).reg q = s.reg q := rfl
@[simp] theorem State.setIndex_readByte (w : Word) (p : Addr) : (s.setIndex w).readByte p = s.readByte p := rfl
@[simp] theorem State.setIndex_pixel (w : Word) (p : Nat) : (s.setIndex w).pixel p = s.pixel p := rfl
@[simp] theorem State.setIndex_keyDown (w : Word) (j : Nat) : (s.setIndex w).keyDown j = s.keyDown j := rfl
@[simp] theorem State.setIndex_firstKey (w : Word) : (s.setIndex w).firstKey = s.firstKey := rfl
@[simp] theorem State.setIndex_halted (w : Word) : (s.setIndex w).halted = s.halted := rfl
@[simp] theorem State.setIndex_rnd (w : Word) : (s.setIndex w).rnd = s.rnd := rfl
@[simp] theorem State.setIndex_fetchable (w : Word) : (s.setIndex w).fetchable = s.fetchable := rfl
@[simp] theorem State.setIndex_fetchWord (w : Word) : (s.setIndex w).fetchWord = s.fetchWord := rfl

/-! ## setPc -/

@[simp] theorem State.setPc_v (w : Word) : (s.setPc w).v = s.v := rfl
@[simp] theorem State.setPc_index (w : Word) : (s.setPc w).index = s.index := rfl
@[simp] theorem State.setPc_pc (w : Word) : (s.setPc w).pc = w := rfl
@[simp] theorem State.setPc_stack (w : Word) : (s.setPc w).stack = s.stack := rfl
@[simp] theorem State.setPc_sp (w : Word) : (s.setPc w).sp = s.sp := rfl
@[simp] theorem State.setPc_dt (w : Word) : (s.setPc w).dt = s.dt := rfl
@[simp] theorem State.setPc_st (w : Word) : (s.setPc w).st = s.st := rfl
@[simp] theorem State.setPc_display (w : Word) : (s.setPc w).display = s.display := rfl
@[simp] theorem State.setPc_keys (w : Word) : (s.setPc w).keys = s.keys := rfl
@[simp] theorem State.setPc_mem (w : Word) : (s.setPc w).mem = s.mem := rfl
@[simp] theorem State.setPc_fault (w : Word) : (s.setPc w).fault = s.fault := rfl
@[simp] theorem State.setPc_font (w : Word) : (s.setPc w).font = s.font := rfl
@[simp] theorem State.setPc_loadWindow (w : Word) : (s.setPc w).loadWindow = s.loadWindow := rfl
@[simp] theorem State.setPc_draws (w : Word) : (s.setPc w).draws = s.draws := rfl
@[simp] theorem State.setPc_environment (w : Word) : (s.setPc w).environment = s.environment := rfl
@[simp] theorem State.setPc_reg (w : Word) (q : Reg) : (s.setPc w).reg q = s.reg q := rfl
@[simp] theorem State.setPc_readByte (w : Word) (p : Addr) : (s.setPc w).readByte p = s.readByte p := rfl
@[simp] theorem State.setPc_ea (w : Word) (off : Nat) : (s.setPc w).ea off = s.ea off := rfl
@[simp] theorem State.setPc_pixel (w : Word) (p : Nat) : (s.setPc w).pixel p = s.pixel p := rfl
@[simp] theorem State.setPc_keyDown (w : Word) (j : Nat) : (s.setPc w).keyDown j = s.keyDown j := rfl
@[simp] theorem State.setPc_firstKey (w : Word) : (s.setPc w).firstKey = s.firstKey := rfl
@[simp] theorem State.setPc_halted (w : Word) : (s.setPc w).halted = s.halted := rfl
@[simp] theorem State.setPc_rnd (w : Word) : (s.setPc w).rnd = s.rnd := rfl

/-! ## setDt -/

@[simp] theorem State.setDt_v (b : Byte) : (s.setDt b).v = s.v := rfl
@[simp] theorem State.setDt_index (b : Byte) : (s.setDt b).index = s.index := rfl
@[simp] theorem State.setDt_pc (b : Byte) : (s.setDt b).pc = s.pc := rfl
@[simp] theorem State.setDt_stack (b : Byte) : (s.setDt b).stack = s.stack := rfl
@[simp] theorem State.setDt_sp (b : Byte) : (s.setDt b).sp = s.sp := rfl
@[simp] theorem State.setDt_dt (b : Byte) : (s.setDt b).dt = b := rfl
@[simp] theorem State.setDt_st (b : Byte) : (s.setDt b).st = s.st := rfl
@[simp] theorem State.setDt_display (b : Byte) : (s.setDt b).display = s.display := rfl
@[simp] theorem State.setDt_keys (b : Byte) : (s.setDt b).keys = s.keys := rfl
@[simp] theorem State.setDt_mem (b : Byte) : (s.setDt b).mem = s.mem := rfl
@[simp] theorem State.setDt_fault (b : Byte) : (s.setDt b).fault = s.fault := rfl
@[simp] theorem State.setDt_font (b : Byte) : (s.setDt b).font = s.font := rfl
@[simp] theorem State.setDt_loadWindow (b : Byte) : (s.setDt b).loadWindow = s.loadWindow := rfl
@[simp] theorem State.setDt_draws (b : Byte) : (s.setDt b).draws = s.draws := rfl
@[simp] theorem State.setDt_environment (b : Byte) : (s.setDt b).environment = s.environment := rfl
@[simp] theorem State.setDt_reg (b : Byte) (q : Reg) : (s.setDt b).reg q = s.reg q := rfl
@[simp] theorem State.setDt_readByte (b : Byte) (p : Addr) : (s.setDt b).readByte p = s.readByte p := rfl
@[simp] theorem State.setDt_ea (b : Byte) (off : Nat) : (s.setDt b).ea off = s.ea off := rfl
@[simp] theorem State.setDt_pixel (b : Byte) (p : Nat) : (s.setDt b).pixel p = s.pixel p := rfl
@[simp] theorem State.setDt_keyDown (b : Byte) (j : Nat) : (s.setDt b).keyDown j = s.keyDown j := rfl
@[simp] theorem State.setDt_firstKey (b : Byte) : (s.setDt b).firstKey = s.firstKey := rfl
@[simp] theorem State.setDt_halted (b : Byte) : (s.setDt b).halted = s.halted := rfl
@[simp] theorem State.setDt_rnd (b : Byte) : (s.setDt b).rnd = s.rnd := rfl
@[simp] theorem State.setDt_fetchable (b : Byte) : (s.setDt b).fetchable = s.fetchable := rfl
@[simp] theorem State.setDt_fetchWord (b : Byte) : (s.setDt b).fetchWord = s.fetchWord := rfl

/-! ## setSt -/

@[simp] theorem State.setSt_v (b : Byte) : (s.setSt b).v = s.v := rfl
@[simp] theorem State.setSt_index (b : Byte) : (s.setSt b).index = s.index := rfl
@[simp] theorem State.setSt_pc (b : Byte) : (s.setSt b).pc = s.pc := rfl
@[simp] theorem State.setSt_stack (b : Byte) : (s.setSt b).stack = s.stack := rfl
@[simp] theorem State.setSt_sp (b : Byte) : (s.setSt b).sp = s.sp := rfl
@[simp] theorem State.setSt_dt (b : Byte) : (s.setSt b).dt = s.dt := rfl
@[simp] theorem State.setSt_st (b : Byte) : (s.setSt b).st = b := rfl
@[simp] theorem State.setSt_display (b : Byte) : (s.setSt b).display = s.display := rfl
@[simp] theorem State.setSt_keys (b : Byte) : (s.setSt b).keys = s.keys := rfl
@[simp] theorem State.setSt_mem (b : Byte) : (s.setSt b).mem = s.mem := rfl
@[simp] theorem State.setSt_fault (b : Byte) : (s.setSt b).fault = s.fault := rfl
@[simp] theorem State.setSt_font (b : Byte) : (s.setSt b).font = s.font := rfl
@[simp] theorem State.setSt_loadWindow (b : Byte) : (s.setSt b).loadWindow = s.loadWindow := rfl
@[simp] theorem State.setSt_draws (b : Byte) : (s.setSt b).draws = s.draws := rfl
@[simp] theorem State.setSt_environment (b : Byte) : (s.setSt b).environment = s.environment := rfl
@[simp] theorem State.setSt_reg (b : Byte) (q : Reg) : (s.setSt b).reg q = s.reg q := rfl
@[simp] theorem State.setSt_readByte (b : Byte) (p : Addr) : (s.setSt b).readByte p = s.readByte p := rfl
@[simp] theorem State.setSt_ea (b : Byte) (off : Nat) : (s.setSt b).ea off = s.ea off := rfl
@[simp] theorem State.setSt_pixel (b : Byte) (p : Nat) : (s.setSt b).pixel p = s.pixel p := rfl
@[simp] theorem State.setSt_keyDown (b : Byte) (j : Nat) : (s.setSt b).keyDown j = s.keyDown j := rfl
@[simp] theorem State.setSt_firstKey (b : Byte) : (s.setSt b).firstKey = s.firstKey := rfl
@[simp] theorem State.setSt_halted (b : Byte) : (s.setSt b).halted = s.halted := rfl
@[simp] theorem State.setSt_rnd (b : Byte) : (s.setSt b).rnd = s.rnd := rfl
@[simp] theorem State.setSt_fetchable (b : Byte) : (s.setSt b).fetchable = s.fetchable := rfl
@[simp] theorem State.setSt_fetchWord (b : Byte) : (s.setSt b).fetchWord = s.fetchWord := rfl

/-! ## setKeys -/

@[simp] theorem State.setKeys_v (k : BitVec 16) : (s.setKeys k).v = s.v := rfl
@[simp] theorem State.setKeys_index (k : BitVec 16) : (s.setKeys k).index = s.index := rfl
@[simp] theorem State.setKeys_pc (k : BitVec 16) : (s.setKeys k).pc = s.pc := rfl
@[simp] theorem State.setKeys_stack (k : BitVec 16) : (s.setKeys k).stack = s.stack := rfl
@[simp] theorem State.setKeys_sp (k : BitVec 16) : (s.setKeys k).sp = s.sp := rfl
@[simp] theorem State.setKeys_dt (k : BitVec 16) : (s.setKeys k).dt = s.dt := rfl
@[simp] theorem State.setKeys_st (k : BitVec 16) : (s.setKeys k).st = s.st := rfl
@[simp] theorem State.setKeys_display (k : BitVec 16) : (s.setKeys k).display = s.display := rfl
@[simp] theorem State.setKeys_keys (k : BitVec 16) : (s.setKeys k).keys = k := rfl
@[simp] theorem State.setKeys_mem (k : BitVec 16) : (s.setKeys k).mem = s.mem := rfl
@[simp] theorem State.setKeys_fault (k : BitVec 16) : (s.setKeys k).fault = s.fault := rfl
@[simp] theorem State.setKeys_font (k : BitVec 16) : (s.setKeys k).font = s.font := rfl
@[simp] theorem State.setKeys_loadWindow (k : BitVec 16) : (s.setKeys k).loadWindow = s.loadWindow := rfl
@[simp] theorem State.setKeys_draws (k : BitVec 16) : (s.setKeys k).draws = s.draws := rfl
@[simp] theorem State.setKeys_environment (k : BitVec 16) : (s.setKeys k).environment = s.environment := rfl
@[simp] theorem State.setKeys_reg (k : BitVec 16) (q : Reg) : (s.setKeys k).reg q = s.reg q := rfl
@[simp] theorem State.setKeys_readByte (k : BitVec 16) (p : Addr) : (s.setKeys k).readByte p = s.readByte p := rfl
@[simp] theorem State.setKeys_ea (k : BitVec 16) (off : Nat) : (s.setKeys k).ea off = s.ea off := rfl
@[simp] theorem State.setKeys_pixel (k : BitVec 16) (p : Nat) : (s.setKeys k).pixel p = s.pixel p := rfl
@[simp] theorem State.setKeys_halted (k : BitVec 16) : (s.setKeys k).halted = s.halted := rfl
@[simp] theorem State.setKeys_rnd (k : BitVec 16) : (s.setKeys k).rnd = s.rnd := rfl
@[simp] theorem State.setKeys_fetchable (k : BitVec 16) : (s.setKeys k).fetchable = s.fetchable := rfl
@[simp] theorem State.setKeys_fetchWord (k : BitVec 16) : (s.setKeys k).fetchWord = s.fetchWord := rfl

/-! ## advance -/

@[simp] theorem State.advance_v : (s.advance).v = s.v := rfl
@[simp] theorem State.advance_index : (s.advance).index = s.index := rfl
@[simp] theorem State.advance_pc : (s.advance).pc = s.pc + 2 := rfl
@[simp] theorem State.advance_stack : (s.advance).stack = s.stack := rfl
@[simp] theorem State.advance_sp : (s.advance).sp = s.sp := rfl
@[simp] theorem State.advance_dt : (s.advance).dt = s.dt := rfl
@[simp] theorem State.advance_st : (s.advance).st = s.st := rfl
@[simp] theorem State.advance_display : (s.advance).display = s.display := rfl
@[simp] theorem State.advance_keys : (s.advance).keys = s.keys := rfl
@[simp] theorem State.advance_mem : (s.advance).mem = s.mem := rfl
@[simp] theorem State.advance_fault : (s.advance).fault = s.fault := rfl
@[simp] theorem State.advance_font : (s.advance).font = s.font := rfl
@[simp] theorem State.advance_loadWindow : (s.advance).loadWindow = s.loadWindow := rfl
@[simp] theorem State.advance_draws : (s.advance).draws = s.draws := rfl
@[simp] theorem State.advance_environment : (s.advance).environment = s.environment := rfl
@[simp] theorem State.advance_reg (q : Reg) : (s.advance).reg q = s.reg q := rfl
@[simp] theorem State.advance_readByte (p : Addr) : (s.advance).readByte p = s.readByte p := rfl
@[simp] theorem State.advance_ea (off : Nat) : (s.advance).ea off = s.ea off := rfl
@[simp] theorem State.advance_pixel (p : Nat) : (s.advance).pixel p = s.pixel p := rfl
@[simp] theorem State.advance_keyDown (j : Nat) : (s.advance).keyDown j = s.keyDown j := rfl
@[simp] theorem State.advance_firstKey : (s.advance).firstKey = s.firstKey := rfl
@[simp] theorem State.advance_halted : (s.advance).halted = s.halted := rfl
@[simp] theorem State.advance_rnd : (s.advance).rnd = s.rnd := rfl

/-! ## rewind -/

@[simp] theorem State.rewind_v : (s.rewind).v = s.v := rfl
@[simp] theorem State.rewind_index : (s.rewind).index = s.index := rfl
@[simp] theorem State.rewind_pc : (s.rewind).pc = s.pc - 2 := rfl
@[simp] theorem State.rewind_stack : (s.rewind).stack = s.stack := rfl
@[simp] theorem State.rewind_sp : (s.rewind).sp = s.sp := rfl
@[simp] theorem State.rewind_dt : (s.rewind).dt = s.dt := rfl
@[simp] theorem State.rewind_st : (s.rewind).st = s.st := rfl
@[simp] theorem State.rewind_display : (s.rewind).display = s.display := rfl
@[simp] theorem State.rewind_keys : (s.rewind).keys = s.keys := rfl
@[simp] theorem State.rewind_mem : (s.rewind).mem = s.mem := rfl
@[simp] theorem State.rewind_fault : (s.rewind).fault = s.fault := rfl
@[simp] theorem State.rewind_font : (s.rewind).font = s.font := rfl
@[simp] theorem State.rewind_loadWindow : (s.rewind).loadWindow = s.loadWindow := rfl
@[simp] theorem State.rewind_draws : (s.rewind).draws = s.draws := rfl
@[simp] theorem State.rewind_environment : (s.rewind).environment = s.environment := rfl
@[simp] theorem State.rewind_reg (q : Reg) : (s.rewind).reg q = s.reg q := rfl
@[simp] theorem State.rewind_readByte (p : Addr) : (s.rewind).readByte p = s.readByte p := rfl
@[simp] theorem State.rewind_ea (off : Nat) : (s.rewind).ea off = s.ea off := rfl
@[simp] theorem State.rewind_pixel (p : Nat) : (s.rewind).pixel p = s.pixel p := rfl
@[simp] theorem State.rewind_keyDown (j : Nat) : (s.rewind).keyDown j = s.keyDown j := rfl
@[simp] theorem State.rewind_firstKey : (s.rewind).firstKey = s.firstKey := rfl
@[simp] theorem State.rewind_halted : (s.rewind).halted = s.halted := rfl
@[simp] theorem State.rewind_rnd : (s.rewind).rnd = s.rnd := rfl

/-! ## writeByte -/

@[simp] theorem State.writeByte_v (a : Addr) (b : Byte) : (s.writeByte a b).v = s.v := rfl
@[simp] theorem State.writeByte_index (a : Addr) (b : Byte) : (s.writeByte a b).index = s.index := rfl
@[simp] theorem State.writeByte_pc (a : Addr) (b : Byte) : (s.writeByte a b).pc = s.pc := rfl
@[simp] theorem State.writeByte_stack (a : Addr) (b : Byte) : (s.writeByte a b).stack = s.stack := rfl
@[simp] theorem State.writeByte_sp (a : Addr) (b : Byte) : (s.writeByte a b).sp = s.sp := rfl
@[simp] theorem State.writeByte_dt (a : Addr) (b : Byte) : (s.writeByte a b).dt = s.dt := rfl
@[simp] theorem State.writeByte_st (a : Addr) (b : Byte) : (s.writeByte a b).st = s.st := rfl
@[simp] theorem State.writeByte_display (a : Addr) (b : Byte) : (s.writeByte a b).display = s.display := rfl
@[simp] theorem State.writeByte_keys (a : Addr) (b : Byte) : (s.writeByte a b).keys = s.keys := rfl
@[simp] theorem State.writeByte_mem (a : Addr) (b : Byte) : (s.writeByte a b).mem = Memory.write s.font s.mem a.toNat b := rfl
@[simp] theorem State.writeByte_fault (a : Addr) (b : Byte) : (s.writeByte a b).fault = s.fault := rfl
@[simp] theorem State.writeByte_font (a : Addr) (b : Byte) : (s.writeByte a b).font = s.font := rfl
@[simp] theorem State.writeByte_loadWindow (a : Addr) (b : Byte) : (s.writeByte a b).loadWindow = s.loadWindow := rfl
@[simp] theorem State.writeByte_draws (a : Addr) (b : Byte) : (s.writeByte a b).draws = s.draws := rfl
@[simp] theorem State.writeByte_environment (a : Addr) (b : Byte) : (s.writeByte a b).environment = s.environment := rfl
@[simp] theorem State.writeByte_reg (a : Addr) (b : Byte) (q : Reg) : (s.writeByte a b).reg q = s.reg q := rfl
@[simp] theorem State.writeByte_ea (a : Addr) (b : Byte) (off : Nat) : (s.writeByte a b).ea off = s.ea off := rfl
@[simp] theorem State.writeByte_pixel (a : Addr) (b : Byte) (p : Nat) : (s.writeByte a b).pixel p = s.pixel p := rfl
@[simp] theorem State.writeByte_keyDown (a : Addr) (b : Byte) (j : Nat) : (s.writeByte a b).keyDown j = s.keyDown j := rfl
@[simp] theorem State.writeByte_firstKey (a : Addr) (b : Byte) : (s.writeByte a b).firstKey = s.firstKey := rfl
@[simp] theorem State.writeByte_halted (a : Addr) (b : Byte) : (s.writeByte a b).halted = s.halted := rfl
@[simp] theorem State.writeByte_rnd (a : Addr) (b : Byte) : (s.writeByte a b).rnd = s.rnd := rfl
@[simp] theorem State.writeByte_fetchable (a : Addr) (b : Byte) : (s.writeByte a b).fetchable = s.fetchable := rfl

/-! ## setDisplay -/

@[simp] theorem State.setDisplay_v (d : Vector (BitVec 64) 32) : (s.setDisplay d).v = s.v := rfl
@[simp] theorem State.setDisplay_index (d : Vector (BitVec 64) 32) : (s.setDisplay d).index = s.index := rfl
@[simp] theorem State.setDisplay_pc (d : Vector (BitVec 64) 32) : (s.setDisplay d).pc = s.pc := rfl
@[simp] theorem State.setDisplay_stack (d : Vector (BitVec 64) 32) : (s.setDisplay d).stack = s.stack := rfl
@[simp] theorem State.setDisplay_sp (d : Vector (BitVec 64) 32) : (s.setDisplay d).sp = s.sp := rfl
@[simp] theorem State.setDisplay_dt (d : Vector (BitVec 64) 32) : (s.setDisplay d).dt = s.dt := rfl
@[simp] theorem State.setDisplay_st (d : Vector (BitVec 64) 32) : (s.setDisplay d).st = s.st := rfl
@[simp] theorem State.setDisplay_display (d : Vector (BitVec 64) 32) : (s.setDisplay d).display = d := rfl
@[simp] theorem State.setDisplay_keys (d : Vector (BitVec 64) 32) : (s.setDisplay d).keys = s.keys := rfl
@[simp] theorem State.setDisplay_mem (d : Vector (BitVec 64) 32) : (s.setDisplay d).mem = s.mem := rfl
@[simp] theorem State.setDisplay_fault (d : Vector (BitVec 64) 32) : (s.setDisplay d).fault = s.fault := rfl
@[simp] theorem State.setDisplay_font (d : Vector (BitVec 64) 32) : (s.setDisplay d).font = s.font := rfl
@[simp] theorem State.setDisplay_loadWindow (d : Vector (BitVec 64) 32) : (s.setDisplay d).loadWindow = s.loadWindow := rfl
@[simp] theorem State.setDisplay_draws (d : Vector (BitVec 64) 32) : (s.setDisplay d).draws = s.draws := rfl
@[simp] theorem State.setDisplay_environment (d : Vector (BitVec 64) 32) : (s.setDisplay d).environment = s.environment := rfl
@[simp] theorem State.setDisplay_reg (d : Vector (BitVec 64) 32) (q : Reg) : (s.setDisplay d).reg q = s.reg q := rfl
@[simp] theorem State.setDisplay_readByte (d : Vector (BitVec 64) 32) (p : Addr) : (s.setDisplay d).readByte p = s.readByte p := rfl
@[simp] theorem State.setDisplay_ea (d : Vector (BitVec 64) 32) (off : Nat) : (s.setDisplay d).ea off = s.ea off := rfl
@[simp] theorem State.setDisplay_keyDown (d : Vector (BitVec 64) 32) (j : Nat) : (s.setDisplay d).keyDown j = s.keyDown j := rfl
@[simp] theorem State.setDisplay_firstKey (d : Vector (BitVec 64) 32) : (s.setDisplay d).firstKey = s.firstKey := rfl
@[simp] theorem State.setDisplay_halted (d : Vector (BitVec 64) 32) : (s.setDisplay d).halted = s.halted := rfl
@[simp] theorem State.setDisplay_rnd (d : Vector (BitVec 64) 32) : (s.setDisplay d).rnd = s.rnd := rfl
@[simp] theorem State.setDisplay_fetchable (d : Vector (BitVec 64) 32) : (s.setDisplay d).fetchable = s.fetchable := rfl
@[simp] theorem State.setDisplay_fetchWord (d : Vector (BitVec 64) 32) : (s.setDisplay d).fetchWord = s.fetchWord := rfl

/-! ## nextDraw -/

@[simp] theorem State.nextDraw_v : (s.nextDraw).v = s.v := rfl
@[simp] theorem State.nextDraw_index : (s.nextDraw).index = s.index := rfl
@[simp] theorem State.nextDraw_pc : (s.nextDraw).pc = s.pc := rfl
@[simp] theorem State.nextDraw_stack : (s.nextDraw).stack = s.stack := rfl
@[simp] theorem State.nextDraw_sp : (s.nextDraw).sp = s.sp := rfl
@[simp] theorem State.nextDraw_dt : (s.nextDraw).dt = s.dt := rfl
@[simp] theorem State.nextDraw_st : (s.nextDraw).st = s.st := rfl
@[simp] theorem State.nextDraw_display : (s.nextDraw).display = s.display := rfl
@[simp] theorem State.nextDraw_keys : (s.nextDraw).keys = s.keys := rfl
@[simp] theorem State.nextDraw_mem : (s.nextDraw).mem = s.mem := rfl
@[simp] theorem State.nextDraw_fault : (s.nextDraw).fault = s.fault := rfl
@[simp] theorem State.nextDraw_font : (s.nextDraw).font = s.font := rfl
@[simp] theorem State.nextDraw_loadWindow : (s.nextDraw).loadWindow = s.loadWindow := rfl
@[simp] theorem State.nextDraw_draws : (s.nextDraw).draws = s.draws + 1 := rfl
@[simp] theorem State.nextDraw_environment : (s.nextDraw).environment = s.environment := rfl
@[simp] theorem State.nextDraw_reg (q : Reg) : (s.nextDraw).reg q = s.reg q := rfl
@[simp] theorem State.nextDraw_readByte (p : Addr) : (s.nextDraw).readByte p = s.readByte p := rfl
@[simp] theorem State.nextDraw_ea (off : Nat) : (s.nextDraw).ea off = s.ea off := rfl
@[simp] theorem State.nextDraw_pixel (p : Nat) : (s.nextDraw).pixel p = s.pixel p := rfl
@[simp] theorem State.nextDraw_keyDown (j : Nat) : (s.nextDraw).keyDown j = s.keyDown j := rfl
@[simp] theorem State.nextDraw_firstKey : (s.nextDraw).firstKey = s.firstKey := rfl
@[simp] theorem State.nextDraw_halted : (s.nextDraw).halted = s.halted := rfl
@[simp] theorem State.nextDraw_fetchable : (s.nextDraw).fetchable = s.fetchable := rfl
@[simp] theorem State.nextDraw_fetchWord : (s.nextDraw).fetchWord = s.fetchWord := rfl

/-! ## raise -/

@[simp] theorem State.raise_v (c : FaultCode) (op : Word) : (s.raise c op).v = s.v := rfl
@[simp] theorem State.raise_index (c : FaultCode) (op : Word) : (s.raise c op).index = s.index := rfl
@[simp] theorem State.raise_pc (c : FaultCode) (op : Word) : (s.raise c op).pc = s.pc := rfl
@[simp] theorem State.raise_stack (c : FaultCode) (op : Word) : (s.raise c op).stack = s.stack := rfl
@[simp] theorem State.raise_sp (c : FaultCode) (op : Word) : (s.raise c op).sp = s.sp := rfl
@[simp] theorem State.raise_dt (c : FaultCode) (op : Word) : (s.raise c op).dt = s.dt := rfl
@[simp] theorem State.raise_st (c : FaultCode) (op : Word) : (s.raise c op).st = s.st := rfl
@[simp] theorem State.raise_display (c : FaultCode) (op : Word) : (s.raise c op).display = s.display := rfl
@[simp] theorem State.raise_keys (c : FaultCode) (op : Word) : (s.raise c op).keys = s.keys := rfl
@[simp] theorem State.raise_mem (c : FaultCode) (op : Word) : (s.raise c op).mem = s.mem := rfl
@[simp] theorem State.raise_fault (c : FaultCode) (op : Word) : (s.raise c op).fault = ⟨c, op⟩ := rfl
@[simp] theorem State.raise_font (c : FaultCode) (op : Word) : (s.raise c op).font = s.font := rfl
@[simp] theorem State.raise_loadWindow (c : FaultCode) (op : Word) : (s.raise c op).loadWindow = s.loadWindow := rfl
@[simp] theorem State.raise_draws (c : FaultCode) (op : Word) : (s.raise c op).draws = s.draws := rfl
@[simp] theorem State.raise_environment (c : FaultCode) (op : Word) : (s.raise c op).environment = s.environment := rfl
@[simp] theorem State.raise_reg (c : FaultCode) (op : Word) (q : Reg) : (s.raise c op).reg q = s.reg q := rfl
@[simp] theorem State.raise_readByte (c : FaultCode) (op : Word) (p : Addr) : (s.raise c op).readByte p = s.readByte p := rfl
@[simp] theorem State.raise_ea (c : FaultCode) (op : Word) (off : Nat) : (s.raise c op).ea off = s.ea off := rfl
@[simp] theorem State.raise_pixel (c : FaultCode) (op : Word) (p : Nat) : (s.raise c op).pixel p = s.pixel p := rfl
@[simp] theorem State.raise_keyDown (c : FaultCode) (op : Word) (j : Nat) : (s.raise c op).keyDown j = s.keyDown j := rfl
@[simp] theorem State.raise_firstKey (c : FaultCode) (op : Word) : (s.raise c op).firstKey = s.firstKey := rfl
@[simp] theorem State.raise_rnd (c : FaultCode) (op : Word) : (s.raise c op).rnd = s.rnd := rfl
@[simp] theorem State.raise_fetchable (c : FaultCode) (op : Word) : (s.raise c op).fetchable = s.fetchable := rfl
@[simp] theorem State.raise_fetchWord (c : FaultCode) (op : Word) : (s.raise c op).fetchWord = s.fetchWord := rfl

/-! ## closeWindow -/

@[simp] theorem State.closeWindow_v : (s.closeWindow).v = s.v := rfl
@[simp] theorem State.closeWindow_index : (s.closeWindow).index = s.index := rfl
@[simp] theorem State.closeWindow_pc : (s.closeWindow).pc = s.pc := rfl
@[simp] theorem State.closeWindow_stack : (s.closeWindow).stack = s.stack := rfl
@[simp] theorem State.closeWindow_sp : (s.closeWindow).sp = s.sp := rfl
@[simp] theorem State.closeWindow_dt : (s.closeWindow).dt = s.dt := rfl
@[simp] theorem State.closeWindow_st : (s.closeWindow).st = s.st := rfl
@[simp] theorem State.closeWindow_display : (s.closeWindow).display = s.display := rfl
@[simp] theorem State.closeWindow_keys : (s.closeWindow).keys = s.keys := rfl
@[simp] theorem State.closeWindow_mem : (s.closeWindow).mem = s.mem := rfl
@[simp] theorem State.closeWindow_fault : (s.closeWindow).fault = s.fault := rfl
@[simp] theorem State.closeWindow_font : (s.closeWindow).font = s.font := rfl
@[simp] theorem State.closeWindow_loadWindow : (s.closeWindow).loadWindow = false := rfl
@[simp] theorem State.closeWindow_draws : (s.closeWindow).draws = s.draws := rfl
@[simp] theorem State.closeWindow_environment : (s.closeWindow).environment = s.environment := rfl
@[simp] theorem State.closeWindow_reg (q : Reg) : (s.closeWindow).reg q = s.reg q := rfl
@[simp] theorem State.closeWindow_readByte (p : Addr) : (s.closeWindow).readByte p = s.readByte p := rfl
@[simp] theorem State.closeWindow_ea (off : Nat) : (s.closeWindow).ea off = s.ea off := rfl
@[simp] theorem State.closeWindow_pixel (p : Nat) : (s.closeWindow).pixel p = s.pixel p := rfl
@[simp] theorem State.closeWindow_keyDown (j : Nat) : (s.closeWindow).keyDown j = s.keyDown j := rfl
@[simp] theorem State.closeWindow_firstKey : (s.closeWindow).firstKey = s.firstKey := rfl
@[simp] theorem State.closeWindow_halted : (s.closeWindow).halted = s.halted := rfl
@[simp] theorem State.closeWindow_rnd : (s.closeWindow).rnd = s.rnd := rfl
@[simp] theorem State.closeWindow_fetchable : (s.closeWindow).fetchable = s.fetchable := rfl
@[simp] theorem State.closeWindow_fetchWord : (s.closeWindow).fetchWord = s.fetchWord := rfl

/-! ## observe -/

@[simp] theorem State.observe_v : s.observe.v = s.v := rfl
@[simp] theorem State.observe_index : s.observe.index = s.index := rfl
@[simp] theorem State.observe_pc : s.observe.pc = s.pc := rfl
@[simp] theorem State.observe_stack : s.observe.stack = s.stack := rfl
@[simp] theorem State.observe_sp : s.observe.sp = s.sp := rfl
@[simp] theorem State.observe_dt : s.observe.dt = s.dt := rfl
@[simp] theorem State.observe_st : s.observe.st = s.st := rfl
@[simp] theorem State.observe_display : s.observe.display = s.display := rfl
@[simp] theorem State.observe_keys : s.observe.keys = s.keys := rfl
@[simp] theorem State.observe_faultCode : s.observe.faultCode = s.fault.code.number := rfl
@[simp] theorem State.observe_faultOpcode : s.observe.faultOpcode = s.fault.opcode := rfl

/-- The byte the host reads at an address is the byte an instruction reads there. -/
@[simp] theorem State.observe_mem (a : Addr) : s.observe.mem[a.toNat]'a.isLt = s.readByte a := by
  simp [State.observe, State.memoryImage]

/-! ## withEvents -/

@[simp] theorem State.withEvents_v (l : List Event) : (s.withEvents l).v = s.v := rfl
@[simp] theorem State.withEvents_index (l : List Event) : (s.withEvents l).index = s.index := rfl
@[simp] theorem State.withEvents_pc (l : List Event) : (s.withEvents l).pc = s.pc := rfl
@[simp] theorem State.withEvents_stack (l : List Event) : (s.withEvents l).stack = s.stack := rfl
@[simp] theorem State.withEvents_sp (l : List Event) : (s.withEvents l).sp = s.sp := rfl
@[simp] theorem State.withEvents_dt (l : List Event) : (s.withEvents l).dt = s.dt := rfl
@[simp] theorem State.withEvents_st (l : List Event) : (s.withEvents l).st = s.st := rfl
@[simp] theorem State.withEvents_display (l : List Event) : (s.withEvents l).display = s.display := rfl
@[simp] theorem State.withEvents_keys (l : List Event) : (s.withEvents l).keys = s.keys := rfl
@[simp] theorem State.withEvents_mem (l : List Event) : (s.withEvents l).mem = s.mem := rfl
@[simp] theorem State.withEvents_fault (l : List Event) : (s.withEvents l).fault = s.fault := rfl
@[simp] theorem State.withEvents_font (l : List Event) : (s.withEvents l).font = s.font := rfl
@[simp] theorem State.withEvents_loadWindow (l : List Event) : (s.withEvents l).loadWindow = s.loadWindow := rfl
@[simp] theorem State.withEvents_draws (l : List Event) : (s.withEvents l).draws = s.draws := rfl
@[simp] theorem State.withEvents_nil : s.withEvents [] = s := rfl
@[simp] theorem State.nextEvent_withEvents_cons (e : Event) (l : List Event) :
    (s.withEvents (e :: l)).nextEvent = (e, s.withEvents l) := rfl

/-! ## setResultThenFlag and skipIf -/

theorem State.setResultThenFlag_eq (x : Reg) (res : Byte) (flag : Bool) :
    s.setResultThenFlag x res flag = (s.setReg x res).setReg vf (flagByte flag) := rfl

@[simp] theorem State.skipIf_true : s.skipIf true = s.advance := rfl
@[simp] theorem State.skipIf_false : s.skipIf false = s := rfl

end Sys2Proof.Machine
end

