-- ==== Sys2Proof/Laws/Memory.lean ====
section
/-! SUPPORT. Memory as a list of cells: reads after writes, and the canonical form, which every memory
operation keeps (rules R40, R46, R47). -/

namespace Sys2Proof.Machine

/-! ## Lookup after erase and insert -/

theorem Memory.lookup_erase (m : List Host.Cell) (a q : Nat) :
    Memory.lookup (Memory.erase m a) q = if q = a then none else Memory.lookup m q := by
  induction m with
  | nil => simp [Memory.erase, Memory.lookup]
  | cons c m ih =>
    obtain ⟨k, b⟩ := c
    by_cases hk : k = a
    · subst hk
      by_cases hq : q = k
      · subst hq
        simpa [Memory.erase] using ih
      · simp [Memory.erase, ih, hq, Memory.lookup, Ne.symm hq]
    · by_cases hq : q = a
      · subst hq
        simpa [Memory.erase, hk, Memory.lookup] using ih
      · simp [Memory.erase, hk, Memory.lookup, ih, hq]

theorem Memory.lookup_insert (m : List Host.Cell) (a q : Nat) (v : Byte) :
    Memory.lookup (Memory.insert m a v) q = if q = a then some v else Memory.lookup m q := by
  induction m with
  | nil => simp [Memory.insert, Memory.lookup, eq_comm]
  | cons c m ih =>
    obtain ⟨k, b⟩ := c
    by_cases h1 : a < k
    · simp [Memory.insert, h1, Memory.lookup, eq_comm]
    · by_cases h2 : a = k
      · subst h2
        by_cases hq : q = a
        · simp [Memory.insert, Memory.lookup, hq]
        · simp [Memory.insert, Memory.lookup, hq, Ne.symm hq]
      · by_cases hq : q = a
        · subst hq
          simpa [Memory.insert, h1, h2, Memory.lookup, Ne.symm h2] using ih
        · simp [Memory.insert, h1, h2, Memory.lookup, ih, hq]

/-- A read after a write: the byte written at its address, what was there at every other. -/
theorem Memory.read_write (font : Font) (m : List Host.Cell) (a q : Nat) (v : Byte) :
    Memory.read font (Memory.write font m a v) q = if q = a then v else Memory.read font m q := by
  by_cases hv : v = Memory.unlisted font a <;> by_cases hq : q = a <;>
    simp [Memory.read, Memory.write, hv, hq, Memory.lookup_erase, Memory.lookup_insert]

/-- `MemRead` after `MemWrite` (rule R47). -/
theorem State.readByte_writeByte (s : State) (a q : Addr) (b : Byte) :
    (s.writeByte a b).readByte q = if q = a then b else s.readByte q := by
  have h : q.toNat = a.toNat ↔ q = a := BitVec.toNat_inj
  simp [State.readByte, State.writeByte, Memory.read_write, h]

/-! ## The canonical form -/

theorem Memory.wf_cons (font : Font) (k : Nat) (b : Byte) (m : List Host.Cell) :
    Memory.wf font ((k, b) :: m) = true ↔
      k < 4096 ∧ b ≠ Memory.unlisted font k ∧ (∀ c ∈ m, k < c.1) ∧ Memory.wf font m = true := by
  simp [Memory.wf, and_assoc]

theorem Memory.mem_erase (m : List Host.Cell) (a : Nat) (c : Host.Cell) (h : c ∈ Memory.erase m a) :
    c ∈ m := by
  induction m with
  | nil => simp [Memory.erase] at h
  | cons d m ih =>
    obtain ⟨k, b⟩ := d
    by_cases hk : k = a
    · exact List.mem_cons_of_mem _ (ih (by simpa [Memory.erase, hk] using h))
    · rcases List.mem_cons.mp (by simpa [Memory.erase, hk] using h) with h | h
      · exact h ▸ List.mem_cons_self
      · exact List.mem_cons_of_mem _ (ih h)

theorem Memory.mem_insert (m : List Host.Cell) (a : Nat) (v : Byte) (c : Host.Cell)
    (h : c ∈ Memory.insert m a v) : c = (a, v) ∨ c ∈ m := by
  induction m with
  | nil => simpa [Memory.insert] using h
  | cons d m ih =>
    obtain ⟨k, b⟩ := d
    by_cases h1 : a < k
    · simpa [Memory.insert, h1] using h
    · by_cases h2 : a = k
      · simp [Memory.insert, h2] at h ⊢
        tauto
      · simp [Memory.insert, h1, h2] at h ⊢
        rcases h with h | h
        · exact .inr (.inl h)
        · rcases ih h with h | h
          · exact .inl h
          · exact .inr (.inr h)

theorem Memory.wf_erase (font : Font) (m : List Host.Cell) (a : Nat) (h : Memory.wf font m = true) :
    Memory.wf font (Memory.erase m a) = true := by
  induction m with
  | nil => rfl
  | cons d m ih =>
    obtain ⟨k, b⟩ := d
    obtain ⟨hk, hb, hall, hm⟩ := (Memory.wf_cons font k b m).mp h
    by_cases h1 : k = a
    · simpa [Memory.erase, h1] using ih hm
    · rw [Memory.erase, if_neg h1]
      exact (Memory.wf_cons ..).mpr ⟨hk, hb, fun c hc => hall c (Memory.mem_erase m a c hc), ih hm⟩

theorem Memory.wf_insert (font : Font) (m : List Host.Cell) (a : Nat) (v : Byte) (ha : a < 4096)
    (hv : v ≠ Memory.unlisted font a) (h : Memory.wf font m = true) :
    Memory.wf font (Memory.insert m a v) = true := by
  induction m with
  | nil => exact (Memory.wf_cons ..).mpr ⟨ha, hv, by simp, rfl⟩
  | cons d m ih =>
    obtain ⟨k, b⟩ := d
    obtain ⟨hk, hb, hall, hm⟩ := (Memory.wf_cons font k b m).mp h
    by_cases h1 : a < k
    · rw [Memory.insert, if_pos h1]
      refine (Memory.wf_cons ..).mpr ⟨ha, hv, fun c hc => ?_, h⟩
      rcases List.mem_cons.mp hc with rfl | hc
      · exact h1
      · exact h1.trans (hall c hc)
    · by_cases h2 : a = k
      · subst h2
        rw [Memory.insert, if_neg h1, if_pos rfl]
        exact (Memory.wf_cons ..).mpr ⟨ha, hv, hall, hm⟩
      · rw [Memory.insert, if_neg h1, if_neg h2]
        refine (Memory.wf_cons ..).mpr ⟨hk, hb, fun c hc => ?_, ih hm⟩
        rcases Memory.mem_insert m a v c hc with rfl | hc
        · exact Nat.lt_of_le_of_ne (Nat.le_of_not_lt h1) (Ne.symm h2)
        · exact hall c hc

/-- Every write keeps the canonical form. -/
theorem Memory.wf_write (font : Font) (m : List Host.Cell) (a : Nat) (v : Byte) (ha : a < 4096)
    (h : Memory.wf font m = true) : Memory.wf font (Memory.write font m a v) = true := by
  by_cases hv : v = Memory.unlisted font a
  · simpa [Memory.write, hv] using Memory.wf_erase font m a h
  · simpa [Memory.write, hv] using Memory.wf_insert font m a v ha hv h

/-- `MemWrite` keeps the canonical form. -/
theorem State.wf_writeByte (s : State) (a : Addr) (b : Byte) (h : Memory.wf s.font s.mem = true) :
    Memory.wf (s.writeByte a b).font (s.writeByte a b).mem = true :=
  Memory.wf_write s.font s.mem a.toNat b a.isLt h

/-- The memory at reset has the canonical form. -/
theorem State.wf_resetWith (font : Font) :
    Memory.wf (State.resetWith font).font (State.resetWith font).mem = true := rfl

end Sys2Proof.Machine
end

