-- ==== Sys2Proof/Laws/Ops.lean ====
section
/-! SUPPORT. What each shared operation can do, once: registers, data addresses, the call stack, register
blocks, keys, skips, operands and flags. -/

namespace Sys2Proof.Machine

/-! ## Registers -/

/-- A register after a register is written (rule R10). -/
theorem State.reg_setReg (s : State) (r q : Reg) (b : Byte) :
    (s.setReg r b).reg q = if q = r then b else s.reg q := by
  have h : r.toNat = q.toNat ↔ q = r := BitVec.toNat_inj.trans eq_comm
  simp only [State.reg, State.setReg, Vector.getElem_set, h]

@[simp] theorem State.reg_setReg_self (s : State) (r : Reg) (b : Byte) : (s.setReg r b).reg r = b := by
  simp [State.reg_setReg]

theorem State.reg_setReg_of_ne (s : State) {r q : Reg} (b : Byte) (h : q ≠ r) :
    (s.setReg r b).reg q = s.reg q := by
  simp [State.reg_setReg, h]

/-- A register after a result and a flag are written: VF is the flag, whatever x is (rule R110). -/
theorem State.reg_setResultThenFlag (s : State) (x q : Reg) (res : Byte) (flag : Bool) :
    (s.setResultThenFlag x res flag).reg q =
      if q = vf then flagByte flag else if q = x then res else s.reg q := by
  simp only [State.setResultThenFlag, State.reg_setReg]

/-! ## Data addresses -/

/-- `EA(off)` as a number (rule R46). -/
theorem State.toNat_ea (s : State) (off : Nat) : (s.ea off).toNat = (s.index.toNat + off) % 4096 := by
  simp [State.ea]

/-- Two offsets of one operation reach two addresses (rule R50: the longest operation is 16 bytes). -/
theorem State.ea_inj (s : State) {j k : Nat} (hj : j < 4096) (hk : k < 4096) (h : s.ea j = s.ea k) :
    j = k := by
  have h' := congrArg BitVec.toNat h
  rw [State.toNat_ea, State.toNat_ea] at h'
  omega

/-! ## The call stack -/

/-- `Push` on a stack that is not full (rule R83). -/
theorem State.push_of_lt (s : State) (a : Word) (h : s.sp.val < 16) :
    s.push a = some { s with
      stack := s.stack.set s.sp.val a h
      sp := ⟨s.sp.val + 1, Nat.succ_lt_succ h⟩ } := by
  simp [State.push, h]

/-- `Push` on a full stack (rule R83). -/
theorem State.push_of_full (s : State) (a : Word) (h : s.sp.val = 16) : s.push a = none := by
  simp [State.push, h]

/-- `Pop` on a stack that is not empty (rule R84). -/
theorem State.pop_of_pos (s : State) (k : Fin 16) (h : k.val + 1 = s.sp.val) :
    s.pop = some (s.stack[k], { s with sp := k.castSucc }) := by
  have h0 : 0 < s.sp.val := by omega
  have hk : s.sp.val - 1 = k.val := by omega
  simp [State.pop, h0, hk, Fin.castSucc, Fin.castAdd, Fin.castLE]

/-- `Pop` on an empty stack (rule R84). -/
theorem State.pop_of_empty (s : State) (h : s.sp.val = 0) : s.pop = none := by
  simp [State.pop, h]

/-! ## Skips -/

/-- What a skip does (rule R81): it moves `pc` and nothing else. -/
theorem State.skipIf_eq (s : State) (c : Bool) : s.skipIf c = s.setPc (if c then s.pc + 2 else s.pc) := by
  cases c <;> rfl

/-! ## Register blocks -/

/-- A byte of memory after `V[0]` to `V[k-1]` are stored: a register at its address, what was there at every
other (rule R151). -/
theorem State.storeRegs_spec (s : State) (k : Nat) (hk : k ≤ 16) :
    (∀ j < k, (s.storeRegs k).readByte (s.ea j) = s.reg (BitVec.ofNat 4 j)) ∧
    (∀ a, (∀ j < k, a ≠ s.ea j) → (s.storeRegs k).readByte a = s.readByte a) := by
  induction k with
  | zero => exact ⟨by omega, fun a _ => rfl⟩
  | succ k ih =>
    obtain ⟨ih1, ih2⟩ := ih (by omega)
    constructor
    · intro j hj
      rw [State.storeRegs, State.readByte_writeByte]
      split
      · next h => rw [s.ea_inj (by omega) (by omega) h]
      · next h => exact ih1 j (by rcases Nat.lt_succ_iff_lt_or_eq.mp hj with h' | rfl <;> [exact h'; exact absurd rfl h])
    · intro a ha
      rw [State.storeRegs, State.readByte_writeByte, if_neg (ha k (Nat.lt_succ_self k))]
      exact ih2 a fun j hj => ha j (Nat.lt_succ_of_lt hj)

/-- A store of registers changes the memory list and nothing else (rule R151). -/
theorem State.storeRegs_eq (s : State) (k : Nat) : s.storeRegs k = { s with mem := (s.storeRegs k).mem } := by
  induction k with
  | zero => rfl
  | succ k ih =>
    rw [State.storeRegs]
    generalize s.storeRegs k = t at ih
    rw [ih]
    rfl

theorem State.wf_storeRegs (s : State) (k : Nat) (h : Memory.wf s.font s.mem = true) :
    Memory.wf (s.storeRegs k).font (s.storeRegs k).mem = true := by
  induction k with
  | zero => exact h
  | succ k ih => exact State.wf_writeByte _ _ _ ih

/-- A register after `V[0]` to `V[k-1]` are loaded (rule R152). -/
theorem State.reg_loadRegs (s : State) (k : Nat) (hk : k ≤ 16) (q : Reg) :
    (s.loadRegs k).reg q = if q.toNat < k then s.readByte (s.ea q.toNat) else s.reg q := by
  induction k with
  | zero => simp [State.loadRegs]
  | succ k ih =>
    have hq : q = BitVec.ofNat 4 k ↔ q.toNat = k := by
      rw [← BitVec.toNat_inj, BitVec.toNat_ofNat, Nat.mod_eq_of_lt (by omega)]
    rw [State.loadRegs, State.reg_setReg, ih (by omega)]
    by_cases h : q.toNat = k
    · simp [hq, h]
    · have : q.toNat < k + 1 ↔ q.toNat < k := by omega
      simp [hq, h, this]

/-- A load of registers changes the registers and nothing else (rule R152). -/
theorem State.loadRegs_eq (s : State) (k : Nat) : s.loadRegs k = { s with v := (s.loadRegs k).v } := by
  induction k with
  | zero => rfl
  | succ k ih =>
    rw [State.loadRegs]
    generalize s.loadRegs k = t at ih
    rw [ih]
    rfl

/-! ## Keys -/

/-- The first key found is pressed and no lower one is (rule R142). -/
theorem State.firstKey_some (s : State) (k : Nat) :
    s.firstKey = some k ↔ k < 16 ∧ s.keyDown k = true ∧ ∀ j < k, s.keyDown j = false := by
  simp only [State.firstKey, List.find?_range_eq_some]
  simp
  tauto

/-- No key is found exactly when none is pressed (rule R142). -/
theorem State.firstKey_none (s : State) : s.firstKey = none ↔ ∀ k < 16, s.keyDown k = false := by
  simp [State.firstKey]

/-- A key index in range (rules R140, R141). -/
theorem keyIndex_of_le {b : Byte} (h : b.toNat ≤ 15) : keyIndex b = some b.toNat := by simp [keyIndex, h]

/-- A key index out of range (rule R165). -/
theorem keyIndex_of_gt {b : Byte} (h : 15 < b.toNat) : keyIndex b = none := by
  simp [keyIndex, Nat.not_le.mpr h]

/-! ## Operands and flags as numbers -/

@[simp] theorem toNat_zextAddr (nnn : Addr) : (zextAddr nnn).toNat = nnn.toNat := by
  have := nnn.isLt
  simp [zextAddr]
  omega

@[simp] theorem toNat_zextByte (b : Byte) : (zextByte b).toNat = b.toNat := by
  have := b.isLt
  simp [zextByte]
  omega

theorem toNat_glyphAddress (b : Byte) : (glyphAddress b).toNat = b.toNat * 5 := by
  have := b.isLt
  simp [glyphAddress, BitVec.toNat_mul]
  omega

theorem toNat_flagByte (f : Bool) : (flagByte f).toNat = if f then 1 else 0 := by cases f <;> rfl

theorem shiftedOutRight_eq (a : Byte) : shiftedOutRight a = decide (a.toNat % 2 = 1) := by
  simp [shiftedOutRight, BitVec.getLsbD, Nat.testBit_zero]

theorem shiftedOutLeft_eq (a : Byte) : shiftedOutLeft a = decide (128 ≤ a.toNat) := by
  have := a.isLt
  simp only [shiftedOutLeft, BitVec.getLsbD, Nat.testBit_eq_decide_div_mod_eq]
  congr 1
  simp only [eq_iff_iff]
  omega

/-! ## A timer after a TICK -/

theorem toNat_timerAfterTick (b : Byte) : (timerAfterTick b).toNat = b.toNat - 1 := by
  unfold timerAfterTick
  split
  · next h => simp [h]
  · next h =>
    have : b.toNat ≠ 0 := fun h0 => h (BitVec.eq_of_toNat_eq (by simpa using h0))
    have := b.isLt
    rw [BitVec.toNat_sub]
    simp
    omega

end Sys2Proof.Machine
end

