-- ==== Sys2Proof/Laws/Events.lean ====
section
/-! SUPPORT. What a step can do: the event it takes, and the four ways a STEP goes (rules R25, R80). -/

namespace Sys2Proof.Machine

/-- A step is the next event on the state that waits for it. -/
theorem step_of_nextEvent {s u : State} {e : Event} (h : s.nextEvent = (e, u)) : step s = handle e u := by
  rw [step, h]

/-- With something scheduled the next event is the head of the schedule. -/
theorem State.nextEvent_cons {s : State} {e : Event} {rest : List Event} (h : s.environment.schedule = e :: rest) :
    s.nextEvent = (e, { s with environment := { s.environment with schedule := rest } }) := by
  simp [State.nextEvent, Environment.next, h]

/-- With nothing scheduled it is the head of the cycle. -/
theorem State.nextEvent_repeats {s : State} {e : Event} {rest : List Event} (h : s.environment.schedule = [])
    (hr : s.environment.repeats = e :: rest) :
    s.nextEvent = (e, { s with environment := { s.environment with schedule := rest } }) := by
  simp [State.nextEvent, Environment.next, h, hr]

/-- With nothing scheduled and no cycle it is any event: a free value. -/
theorem State.nextEvent_free {s : State} (h : s.environment.schedule = []) (hr : s.environment.repeats = []) :
    s.nextEvent = (Config.event s.environment.turn,
      { s with environment := { s.environment with turn := s.environment.turn + 1 } }) := by
  simp [State.nextEvent, Environment.next, h, hr]

/-- The state that waits for the event differs from `s` in the environment alone. -/
theorem State.nextEvent_state (s : State) :
    s.nextEvent.2 = { s with environment := s.nextEvent.2.environment } := rfl

/-- The four ways a STEP goes (rule R80). -/
theorem stepEvent_cases {s t : State} (h : stepEvent s = .next t) :
    (s.halted = true ∧ t = s) ∨
    (s.halted = false ∧ s.fetchable = false ∧ t = s.closeWindow.raise .fetchOutOfRange 0) ∨
    (s.halted = false ∧ s.fetchable = true ∧ (∃ e, decodeWord s.fetchWord = .error e) ∧
      t = s.closeWindow.advance.raise .illegalOpcode s.fetchWord) ∨
    (s.halted = false ∧ s.fetchable = true ∧
      ∃ i, decodeWord s.fetchWord = .ok i ∧ exec i s.closeWindow.advance = .next t) := by
  unfold stepEvent at h
  split at h
  · next hh => exact .inl ⟨hh, by cases h; rfl⟩
  · next hh =>
    have hh : s.halted = false := by simpa using hh
    unfold fetchAndExecute at h
    split at h
    · next hf =>
      simp only [State.closeWindow_fetchWord, executeWord] at h
      refine .inr (.inr ?_)
      split at h
      · next i hi => exact .inr ⟨hh, hf, i, hi, h⟩
      · next e he => exact .inl ⟨hh, hf, ⟨e, he⟩, by cases h; rfl⟩
    · next hf => exact .inr (.inl ⟨hh, by simpa using hf, by cases h; rfl⟩)

/-- What the six events do (rule R25). -/
theorem handle_cases {e : Event} {s t : State} (h : handle e s = .next t) :
    (e = .reset ∧ t = s.resetEvent) ∨ (∃ image, e = .load image ∧ t = s.loadEvent image) ∨
    (e = .step ∧ stepEvent s = .next t) ∨ (e = .tick ∧ t = s.tickEvent) ∨
    (∃ k, e = .keys k ∧ t = s.keysEvent k) ∨ (e = .observe ∧ t = s) := by
  cases e with
  | reset => exact .inl ⟨rfl, by cases h; rfl⟩
  | load image => exact .inr (.inl ⟨image, rfl, by cases h; rfl⟩)
  | step => exact .inr (.inr (.inl ⟨rfl, h⟩))
  | tick => exact .inr (.inr (.inr (.inl ⟨rfl, by cases h; rfl⟩)))
  | keys k => exact .inr (.inr (.inr (.inr (.inl ⟨k, rfl, by cases h; rfl⟩))))
  | observe => exact .inr (.inr (.inr (.inr (.inr ⟨rfl, by cases h; rfl⟩))))

/-- The bytes of memory after an image is stored from `a` upward (rule R192). -/
theorem State.storeImage_spec (s : State) (a : Nat) (image : List Byte) (h : a + image.length ≤ 4096) :
    (∀ i (hi : i < image.length), (s.storeImage a image).readByte (BitVec.ofNat 12 (a + i)) = image[i]) ∧
    (∀ q : Addr, (∀ i < image.length, q ≠ BitVec.ofNat 12 (a + i)) →
      (s.storeImage a image).readByte q = s.readByte q) := by
  induction image generalizing s a with
  | nil => exact ⟨by simp, fun _ _ => rfl⟩
  | cons b bs ih =>
    obtain ⟨ih1, ih2⟩ := ih (s.writeByte (BitVec.ofNat 12 a) b) (a + 1) (by simp at h; omega)
    simp only [List.length_cons] at h
    constructor
    · intro i hi
      cases i with
      | zero =>
        rw [State.storeImage, ih2, State.readByte_writeByte]
        · simp
        · intro j hj hne
          have := congrArg BitVec.toNat hne
          simp at this
          omega
      | succ i =>
        have := ih1 i (by simpa using hi)
        rw [State.storeImage]
        simpa [Nat.add_assoc, Nat.add_comm 1 i] using this
    · intro q hq
      rw [State.storeImage, ih2, State.readByte_writeByte, if_neg]
      · simpa using hq 0 (by simp)
      · intro i hi
        simpa [Nat.add_assoc, Nat.add_comm 1 i] using hq (i + 1) (by simpa using hi)

/-- An image changes the memory list and nothing else (rule R192). -/
theorem State.storeImage_eq (s : State) (a : Nat) (image : List Byte) :
    s.storeImage a image = { s with mem := (s.storeImage a image).mem } := by
  induction image generalizing s a with
  | nil => rfl
  | cons b bs ih => exact (ih (s.writeByte (BitVec.ofNat 12 a) b) (a + 1))

theorem State.wf_storeImage (s : State) (a : Nat) (image : List Byte) (h : Memory.wf s.font s.mem = true) :
    Memory.wf (s.storeImage a image).font (s.storeImage a image).mem = true := by
  induction image generalizing s a with
  | nil => exact h
  | cons b bs ih => exact ih _ _ (State.wf_writeByte _ _ _ h)

/-- What an instruction does to the FAULT latch: nothing, or one of the three execute-phase faults under its
condition, and then nothing else (rules R160, R166). -/
theorem exec_fault (i : Instr) (s t : State) (h : exec i s = .next t) :
    t.fault = s.fault ∨ (∃ nnn, i = .call nnn ∧ s.sp.val = 16 ∧ t = s.raise .stackOverflow (encode i)) ∨
    (i = .ret ∧ s.sp.val = 0 ∧ t = s.raise .stackUnderflow (encode i)) ∨
    (∃ x, (i = .skp x ∨ i = .sknp x) ∧ 15 < (s.reg x).toNat ∧ t = s.raise .keyIndexOutOfRange (encode i)) := by
  cases i with
  | ret =>
    simp only [exec, execRet] at h
    split at h
    · next a u hp =>
      cases h
      left; unfold State.pop at hp; split at hp <;> cases hp; rfl
    · next hp =>
      cases h; right; right; left
      refine ⟨rfl, ?_, rfl⟩
      unfold State.pop at hp; split at hp <;> first | (cases hp; done) | omega
  | call nnn =>
    simp only [exec, execCall] at h
    split at h
    · next u hp =>
      cases h
      left; unfold State.push at hp; split at hp <;> cases hp; rfl
    · next hp =>
      cases h; right; left
      refine ⟨nnn, rfl, ?_, rfl⟩
      have := s.sp.isLt
      unfold State.push at hp; split at hp <;> first | (cases hp; done) | omega
  | skp x =>
    simp only [exec, execSkp] at h
    split at h <;> cases h
    · left; rw [State.skipIf_eq]; rfl
    · next hk =>
      refine .inr (.inr (.inr ⟨x, .inl rfl, ?_, rfl⟩))
      unfold keyIndex at hk
      split at hk <;> first | (cases hk; done) | omega
  | sknp x =>
    simp only [exec, execSknp] at h
    split at h <;> cases h
    · left; rw [State.skipIf_eq]; rfl
    · next hk =>
      refine .inr (.inr (.inr ⟨x, .inr rfl, ?_, rfl⟩))
      unfold keyIndex at hk
      split at hk <;> first | (cases hk; done) | omega
  | ldVxK x => simp only [exec, execLdVxK] at h; split at h <;> cases h <;> exact .inl rfl
  | ldMiVx x => cases h; left; rw [s.storeRegs_eq]
  | ldVxMi x => cases h; left; rw [s.loadRegs_eq]
  | seVxNn | sneVxNn | seVxVy | sneVxVy => cases h; left; rw [State.skipIf_eq]; rfl
  | _ => cases h; exact .inl rfl

end Sys2Proof.Machine
end

