-- ==== Sys2Proof/Laws/Frame.lean ====
section
/-! SUPPORT. The frame of each shared operation (rule R7): which pieces of state it can change. -/

namespace Sys2Proof.Machine

theorem OnlyChanges.refl (s : State) (w : Set Piece) : OnlyChanges s s w := ⟨fun _ _ => rfl, rfl, rfl, rfl⟩

theorem OnlyChanges.mono {s t : State} {w w' : Set Piece} (h : OnlyChanges s t w) (hw : w ⊆ w') :
    OnlyChanges s t w' := ⟨fun p hp => h.1 p fun hp' => hp (hw hp'), h.2⟩

theorem OnlyChanges.trans {s t u : State} {w : Set Piece} (h : OnlyChanges s t w)
    (h' : OnlyChanges t u w) : OnlyChanges s u w :=
  ⟨fun p hp => (h'.1 p hp).trans (h.1 p hp), h'.2.1.trans h.2.1, h'.2.2.1.trans h.2.2.1,
    h'.2.2.2.trans h.2.2.2⟩

/-- One operation after another: together they change what either changes. -/
theorem OnlyChanges.then {s t u : State} {w w' : Set Piece} (h : OnlyChanges s t w)
    (h' : OnlyChanges t u w') : OnlyChanges s u (w ∪ w') :=
  (h.mono Set.subset_union_left).trans (h'.mono Set.subset_union_right)

variable (s : State)

theorem State.onlyChanges_setReg (r : Reg) (b : Byte) : OnlyChanges s (s.setReg r b) {.v r} := by
  refine ⟨fun p hp => ?_, rfl, rfl, rfl⟩
  cases p with
  | v q =>
    have : q ≠ r := fun h => hp (by simp [h])
    simp [State.get, State.reg_setReg_of_ne s b this]
  | _ => simp [State.get]

theorem State.onlyChanges_setIndex (w : Word) : OnlyChanges s (s.setIndex w) {.index} := by
  refine ⟨fun p hp => ?_, rfl, rfl, rfl⟩
  cases p <;> first | exact absurd rfl hp | simp [State.get]

theorem State.onlyChanges_setPc (w : Word) : OnlyChanges s (s.setPc w) {.pc} := by
  refine ⟨fun p hp => ?_, rfl, rfl, rfl⟩
  cases p <;> first | exact absurd rfl hp | simp [State.get]

theorem State.onlyChanges_setDt (b : Byte) : OnlyChanges s (s.setDt b) {.dt} := by
  refine ⟨fun p hp => ?_, rfl, rfl, rfl⟩
  cases p <;> first | exact absurd rfl hp | simp [State.get]

theorem State.onlyChanges_setSt (b : Byte) : OnlyChanges s (s.setSt b) {.st} := by
  refine ⟨fun p hp => ?_, rfl, rfl, rfl⟩
  cases p <;> first | exact absurd rfl hp | simp [State.get]

theorem State.onlyChanges_setKeys (k : BitVec 16) : OnlyChanges s (s.setKeys k) {q | ∃ j, q = .key j} := by
  refine ⟨fun p hp => ?_, rfl, rfl, rfl⟩
  cases p <;> first | exact absurd ⟨_, rfl⟩ hp | simp [State.get]

theorem State.onlyChanges_setDisplay (d : Vector (BitVec 64) 32) :
    OnlyChanges s (s.setDisplay d) allPixels := by
  refine ⟨fun p hp => ?_, rfl, rfl, rfl⟩
  cases p <;> first | exact absurd ⟨_, rfl⟩ hp | simp [State.get]

theorem State.onlyChanges_writeByte (a : Addr) (b : Byte) : OnlyChanges s (s.writeByte a b) {.byte a} := by
  refine ⟨fun p hp => ?_, rfl, rfl, rfl⟩
  cases p with
  | byte q =>
    have : q ≠ a := fun h => hp (by simp [h])
    simp [State.get, State.readByte_writeByte, this]
  | _ => simp [State.get]

theorem State.onlyChanges_nextDraw : OnlyChanges s s.nextDraw {.draws} := by
  refine ⟨fun p hp => ?_, rfl, rfl, rfl⟩
  cases p <;> first | exact absurd rfl hp | simp [State.get]

theorem State.onlyChanges_raise (c : FaultCode) (op : Word) : OnlyChanges s (s.raise c op) theLatch := by
  refine ⟨fun p hp => ?_, rfl, rfl, rfl⟩
  cases p with
  | faultCode => exact absurd (.inl rfl) hp
  | faultOpcode => exact absurd (.inr rfl) hp
  | _ => simp [State.get]

theorem State.onlyChanges_skipIf (c : Bool) : OnlyChanges s (s.skipIf c) {.pc} :=
  State.skipIf_eq s c ▸ s.onlyChanges_setPc _

theorem State.onlyChanges_setResultThenFlag (x : Reg) (res : Byte) (flag : Bool) :
    OnlyChanges s (s.setResultThenFlag x res flag) {.v x, .v 0xF#4} :=
  (s.onlyChanges_setReg x res).then (State.onlyChanges_setReg _ vf _)

theorem State.onlyChanges_push (a : Word) (k : Fin 16) (h : k.val = s.sp.val) (t : State)
    (ht : s.push a = some t) : OnlyChanges s t {.sp, .stack k} := by
  have hlt : s.sp.val < 16 := h ▸ k.isLt
  rw [s.push_of_lt a hlt] at ht
  obtain rfl := Option.some.inj ht
  refine ⟨fun p hp => ?_, rfl, rfl, rfl⟩
  cases p with
  | stack j =>
    have : s.sp.val ≠ j.val := fun hj => hp (by simp [Fin.ext_iff, h, hj])
    simp [State.get, this]
  | sp => exact absurd (by simp) hp
  | _ => rfl

theorem State.onlyChanges_pop (a : Word) (t : State) (ht : s.pop = some (a, t)) :
    OnlyChanges s t {.sp} := by
  by_cases h : 0 < s.sp.val
  · simp only [State.pop, h, dif_pos, Option.some.injEq, Prod.mk.injEq] at ht
    obtain ⟨-, rfl⟩ := ht
    refine ⟨fun p hp => ?_, rfl, rfl, rfl⟩
    cases p <;> first | exact absurd rfl hp | rfl
  · simp [State.pop, h] at ht

theorem State.onlyChanges_storeRegs (k : Nat) : OnlyChanges s (s.storeRegs k) (dataBytes s k) := by
  induction k with
  | zero => exact OnlyChanges.refl s _
  | succ k ih =>
    refine (ih.mono ?_).trans ((State.onlyChanges_writeByte _ _ _).mono ?_)
    · rintro q ⟨j, hj, rfl⟩
      exact ⟨j, Nat.lt_succ_of_lt hj, rfl⟩
    · rintro q rfl
      exact ⟨k, Nat.lt_succ_self k, rfl⟩

theorem State.onlyChanges_loadRegs (k : Nat) (hk : k ≤ 16) :
    OnlyChanges s (s.loadRegs k) {q | ∃ r : Reg, r.toNat < k ∧ q = .v r} := by
  refine ⟨fun p hp => ?_, ?_⟩
  · cases p with
    | v r =>
      have : ¬ r.toNat < k := fun h => hp ⟨r, h, rfl⟩
      simp [State.get, s.reg_loadRegs k hk, this]
    | _ => rw [s.loadRegs_eq k]; rfl
  · rw [s.loadRegs_eq k]
    exact ⟨rfl, rfl, rfl⟩

end Sys2Proof.Machine
end

