-- ==== Sys2Proof/Laws/PerInstr.lean ====
section
/-! SUPPORT. One lemma per constructor of Instr about the instruction as syntax: its row is a row of the
opcode map, and its encoding is a word of that row (rules R62, R64). -/

namespace Sys2Proof.Laws

open Sys2Proof

/-- The instruction stands for a row of the opcode map and is encoded in that row (rule R64). -/
def EncodedInRow.Statement (i : Instr) : Prop := i.wellFormed = true ∧ i.row.matches (encode i) = true

theorem EncodedInRow.cls : EncodedInRow.Statement .cls := ⟨rfl, rfl⟩

theorem EncodedInRow.ret : EncodedInRow.Statement .ret := ⟨rfl, rfl⟩

theorem EncodedInRow.jp (nnn : Addr) : EncodedInRow.Statement (.jp nnn) :=
  ⟨rfl, beq_iff_eq.mpr (packA_and_major 0x1#4 nnn)⟩

theorem EncodedInRow.call (nnn : Addr) : EncodedInRow.Statement (.call nnn) :=
  ⟨rfl, beq_iff_eq.mpr (packA_and_major 0x2#4 nnn)⟩

theorem EncodedInRow.seVxNn (x : Reg) (nn : Byte) : EncodedInRow.Statement (.seVxNn x nn) :=
  ⟨rfl, beq_iff_eq.mpr (packI_and_major 0x3#4 x nn)⟩

theorem EncodedInRow.sneVxNn (x : Reg) (nn : Byte) : EncodedInRow.Statement (.sneVxNn x nn) :=
  ⟨rfl, beq_iff_eq.mpr (packI_and_major 0x4#4 x nn)⟩

theorem EncodedInRow.seVxVy (x y : Reg) : EncodedInRow.Statement (.seVxVy x y) :=
  ⟨rfl, beq_iff_eq.mpr (packR_and_minor 0x5#4 x y 0x0#4)⟩

theorem EncodedInRow.ldVxNn (x : Reg) (nn : Byte) : EncodedInRow.Statement (.ldVxNn x nn) :=
  ⟨rfl, beq_iff_eq.mpr (packI_and_major 0x6#4 x nn)⟩

theorem EncodedInRow.addVxNn (x : Reg) (nn : Byte) : EncodedInRow.Statement (.addVxNn x nn) :=
  ⟨rfl, beq_iff_eq.mpr (packI_and_major 0x7#4 x nn)⟩

theorem EncodedInRow.ldVxVy (x y : Reg) : EncodedInRow.Statement (.ldVxVy x y) :=
  ⟨rfl, beq_iff_eq.mpr (packR_and_minor 0x8#4 x y 0x0#4)⟩

theorem EncodedInRow.or (x y : Reg) : EncodedInRow.Statement (.or x y) :=
  ⟨rfl, beq_iff_eq.mpr (packR_and_minor 0x8#4 x y 0x1#4)⟩

theorem EncodedInRow.and (x y : Reg) : EncodedInRow.Statement (.and x y) :=
  ⟨rfl, beq_iff_eq.mpr (packR_and_minor 0x8#4 x y 0x2#4)⟩

theorem EncodedInRow.xor (x y : Reg) : EncodedInRow.Statement (.xor x y) :=
  ⟨rfl, beq_iff_eq.mpr (packR_and_minor 0x8#4 x y 0x3#4)⟩

theorem EncodedInRow.addVxVy (x y : Reg) : EncodedInRow.Statement (.addVxVy x y) :=
  ⟨rfl, beq_iff_eq.mpr (packR_and_minor 0x8#4 x y 0x4#4)⟩

theorem EncodedInRow.sub (x y : Reg) : EncodedInRow.Statement (.sub x y) :=
  ⟨rfl, beq_iff_eq.mpr (packR_and_minor 0x8#4 x y 0x5#4)⟩

theorem EncodedInRow.shr (x y : Reg) : EncodedInRow.Statement (.shr x y) :=
  ⟨rfl, beq_iff_eq.mpr (packR_and_minor 0x8#4 x y 0x6#4)⟩

theorem EncodedInRow.subn (x y : Reg) : EncodedInRow.Statement (.subn x y) :=
  ⟨rfl, beq_iff_eq.mpr (packR_and_minor 0x8#4 x y 0x7#4)⟩

theorem EncodedInRow.shl (x y : Reg) : EncodedInRow.Statement (.shl x y) :=
  ⟨rfl, beq_iff_eq.mpr (packR_and_minor 0x8#4 x y 0xE#4)⟩

theorem EncodedInRow.sneVxVy (x y : Reg) : EncodedInRow.Statement (.sneVxVy x y) :=
  ⟨rfl, beq_iff_eq.mpr (packR_and_minor 0x9#4 x y 0x0#4)⟩

theorem EncodedInRow.ldINnn (nnn : Addr) : EncodedInRow.Statement (.ldINnn nnn) :=
  ⟨rfl, beq_iff_eq.mpr (packA_and_major 0xA#4 nnn)⟩

theorem EncodedInRow.rnd (x : Reg) (nn : Byte) : EncodedInRow.Statement (.rnd x nn) :=
  ⟨rfl, beq_iff_eq.mpr (packI_and_major 0xC#4 x nn)⟩

theorem EncodedInRow.drw (x y : Reg) (n : Nibble) : EncodedInRow.Statement (.drw x y n) :=
  ⟨rfl, beq_iff_eq.mpr (packR_and_major 0xD#4 x y n)⟩

theorem EncodedInRow.skp (x : Reg) : EncodedInRow.Statement (.skp x) :=
  ⟨rfl, beq_iff_eq.mpr (packI_and_function 0xE#4 x 0x9E#8)⟩

theorem EncodedInRow.sknp (x : Reg) : EncodedInRow.Statement (.sknp x) :=
  ⟨rfl, beq_iff_eq.mpr (packI_and_function 0xE#4 x 0xA1#8)⟩

theorem EncodedInRow.ldVxDt (x : Reg) : EncodedInRow.Statement (.ldVxDt x) :=
  ⟨rfl, beq_iff_eq.mpr (packI_and_function 0xF#4 x 0x07#8)⟩

theorem EncodedInRow.ldVxK (x : Reg) : EncodedInRow.Statement (.ldVxK x) :=
  ⟨rfl, beq_iff_eq.mpr (packI_and_function 0xF#4 x 0x0A#8)⟩

theorem EncodedInRow.ldDtVx (x : Reg) : EncodedInRow.Statement (.ldDtVx x) :=
  ⟨rfl, beq_iff_eq.mpr (packI_and_function 0xF#4 x 0x15#8)⟩

theorem EncodedInRow.ldStVx (x : Reg) : EncodedInRow.Statement (.ldStVx x) :=
  ⟨rfl, beq_iff_eq.mpr (packI_and_function 0xF#4 x 0x18#8)⟩

theorem EncodedInRow.addIVx (x : Reg) : EncodedInRow.Statement (.addIVx x) :=
  ⟨rfl, beq_iff_eq.mpr (packI_and_function 0xF#4 x 0x1E#8)⟩

theorem EncodedInRow.ldFVx (x : Reg) : EncodedInRow.Statement (.ldFVx x) :=
  ⟨rfl, beq_iff_eq.mpr (packI_and_function 0xF#4 x 0x29#8)⟩

theorem EncodedInRow.ldBVx (x : Reg) : EncodedInRow.Statement (.ldBVx x) :=
  ⟨rfl, beq_iff_eq.mpr (packI_and_function 0xF#4 x 0x33#8)⟩

theorem EncodedInRow.ldMiVx (x : Reg) : EncodedInRow.Statement (.ldMiVx x) :=
  ⟨rfl, beq_iff_eq.mpr (packI_and_function 0xF#4 x 0x55#8)⟩

theorem EncodedInRow.ldVxMi (x : Reg) : EncodedInRow.Statement (.ldVxMi x) :=
  ⟨rfl, beq_iff_eq.mpr (packI_and_function 0xF#4 x 0x65#8)⟩

end Sys2Proof.Laws
end

