-- ==== Sys2Proof/Laws/Sprite.lean ====
section
/-! SUPPORT. What drawing does to the display, pixel by pixel: from one plotted bit to a whole sprite (rule
R131). -/

namespace Sys2Proof.Machine

/-- A pixel after one pixel of the grid is toggled. -/
theorem Display.lit_toggle (d : Vector (BitVec 64) 32) (col row q w : Nat) (hc : col < 64) :
    Display.lit (Display.toggle d col row) q w =
      (Display.lit d q w ^^ decide (q = col ∧ w = row ∧ row < 32)) := by
  by_cases hr : row < 32
  · by_cases hw : w < 32
    · by_cases hrw : row = w
      · subst hrw
        simp [Display.lit, Display.toggle, hr, BitVec.getLsbD_twoPow, hc, eq_comm]
      · simp [Display.lit, Display.toggle, hr, hw, hrw, Ne.symm hrw]
    · have : w ≠ row := by omega
      simp [Display.lit, hw, this]
  · simp [Display.toggle, hr]

/-- A pixel after one set bit of a sprite is plotted (rule R131). -/
theorem Canvas.lit_plot (c : Canvas) (col row q w : Nat) :
    Display.lit (c.plot col row).display q w =
      (Display.lit c.display q w ^^ decide (q = col ∧ w = row ∧ col ≤ 63 ∧ row ≤ 31)) := by
  unfold Canvas.plot
  split
  · next h =>
    rw [Display.lit_toggle _ _ _ _ _ (by omega)]
    congr 2
    simp only [eq_iff_iff]
    omega
  · next h =>
    have : ¬ (q = col ∧ w = row ∧ col ≤ 63 ∧ row ≤ 31) := fun h' => h h'.2.2
    simp [this]

/-- The collision flag after one set bit is plotted: sticky (rule R131). -/
theorem Canvas.collided_plot (c : Canvas) (col row : Nat) :
    (c.plot col row).collided =
      (c.collided || (decide (col ≤ 63 ∧ row ≤ 31) && Display.lit c.display col row)) := by
  unfold Canvas.plot
  split
  · next h => simp [h]
  · next h => simp [h]

/-- The first `k` columns of the sprite row `b`, put with column 0 at `ox` in row `py`, set the pixel (q, w). -/
def rowCovers (b : Byte) (ox py k q w : Nat) : Bool :=
  decide (w = py ∧ ox ≤ q ∧ q < ox + k) && b.getLsbD (7 - (q - ox))

/-- A pixel of the grid after the first `k` columns of a sprite row are drawn (rule R131). -/
theorem Canvas.lit_drawRow (c : Canvas) (b : Byte) (ox py k q w : Nat) (hq : q ≤ 63) (hw : w ≤ 31) :
    Display.lit (c.drawRow b ox py k).display q w =
      (Display.lit c.display q w ^^ rowCovers b ox py k q w) := by
  induction k with
  | zero =>
    have : ¬ (w = py ∧ ox ≤ q ∧ q < ox + 0) := by omega
    rw [rowCovers, decide_eq_false this]
    simp [Canvas.drawRow]
  | succ k ih =>
    rw [Canvas.drawRow]
    by_cases hat : w = py ∧ q = ox + k
    · obtain ⟨rfl, rfl⟩ := hat
      have hold : rowCovers b ox w k (ox + k) w = false := by simp [rowCovers]
      have hnew : rowCovers b ox w (k + 1) (ox + k) w = b.getLsbD (7 - k) := by simp [rowCovers]
      rw [hold, Bool.xor_false] at ih
      cases hb : b.getLsbD (7 - k)
      · simp [ih, hnew, hb]
      · simp [Canvas.lit_plot, ih, hnew, hb, hq, hw]
    · have hsame : rowCovers b ox py (k + 1) q w = rowCovers b ox py k q w := by
        unfold rowCovers
        congr 2
        simp only [eq_iff_iff]
        omega
      have hno : ¬ (q = ox + k ∧ w = py ∧ ox + k ≤ 63 ∧ py ≤ 31) := fun h => hat ⟨h.2.1, h.1⟩
      rw [hsame]
      split
      · rw [Canvas.lit_plot, ih]
        simp [hno]
      · exact ih

/-- The collision flag after the first `k` columns of a sprite row are drawn: whether a set bit fell on a pixel
of the grid that was lit before the row (rule R131). -/
theorem Canvas.collided_drawRow (c : Canvas) (b : Byte) (ox py k : Nat) :
    (c.drawRow b ox py k).collided = true ↔
      c.collided = true ∨ ∃ q w, q ≤ 63 ∧ w ≤ 31 ∧ rowCovers b ox py k q w = true ∧
        Display.lit c.display q w = true := by
  induction k with
  | zero =>
    simp only [Canvas.drawRow, iff_self_or]
    rintro ⟨q, w, -, -, h, -⟩
    simp [rowCovers] at h
    omega
  | succ k ih =>
    rw [Canvas.drawRow]
    cases hb : b.getLsbD (7 - k)
    · have hsame : ∀ q w, rowCovers b ox py (k + 1) q w = rowCovers b ox py k q w := by
        intro q w
        by_cases hq : q = ox + k
        · subst hq
          simp [rowCovers, hb]
        · unfold rowCovers
          congr 2
          simp only [eq_iff_iff]
          omega
      simp only [hsame, Bool.false_eq_true, if_false]
      exact ih
    · simp only [if_true, Canvas.collided_plot, Bool.or_eq_true, Bool.and_eq_true, decide_eq_true_eq, ih]
      constructor
      · rintro ((h | ⟨q, w, hq, hw, hc, hl⟩) | ⟨⟨hq, hw⟩, hl⟩)
        · exact .inl h
        · refine .inr ⟨q, w, hq, hw, ?_, hl⟩
          simp [rowCovers] at hc ⊢
          exact ⟨⟨hc.1.1, hc.1.2.1, by omega⟩, hc.2⟩
        · refine .inr ⟨ox + k, py, hq, hw, by simp [rowCovers, hb], ?_⟩
          have hold : rowCovers b ox py k (ox + k) py = false := by simp [rowCovers]
          simpa [Canvas.lit_drawRow c b ox py k _ _ hq hw, hold] using hl
      · rintro (h | ⟨q, w, hq, hw, hc, hl⟩)
        · exact .inl (.inl h)
        · by_cases hqk : q = ox + k
          · subst hqk
            have hwp : w = py := by
              simp [rowCovers] at hc
              exact hc.1
            subst hwp
            have hold : rowCovers b ox w k (ox + k) w = false := by simp [rowCovers]
            exact .inr ⟨⟨hq, hw⟩, by rw [Canvas.lit_drawRow c b ox w k _ _ hq hw, hold, hl]; rfl⟩
          · refine .inl (.inr ⟨q, w, hq, hw, ?_, hl⟩)
            simp [rowCovers] at hc ⊢
            exact ⟨⟨hc.1.1, hc.1.2.1, by omega⟩, hc.2⟩

/-- The sprite of `k + 1` rows covers what its first `k` rows cover and what its last row covers. -/
theorem spriteCovers_succ (s : State) (ox oy k q w : Nat) :
    spriteCovers s ox oy (k + 1) q w =
      (spriteCovers s ox oy k q w || rowCovers (s.readByte (s.ea k)) ox (oy + k) 8 q w) := by
  by_cases hw : w = oy + k
  · subst hw
    have h1 : spriteCovers s ox oy k q (oy + k) = false := by simp [spriteCovers]
    rw [h1, Bool.false_or]
    simp [spriteCovers, rowCovers]
  · have h1 : rowCovers (s.readByte (s.ea k)) ox (oy + k) 8 q w = false := by simp [rowCovers, hw]
    rw [h1, Bool.or_false]
    unfold spriteCovers
    congr 2
    simp only [eq_iff_iff]
    omega

/-- The first rows and the row after them cover no pixel twice (rule R131 (j)). -/
theorem spriteCovers_disjoint (s : State) (ox oy k q w : Nat) (b : Byte)
    (h : rowCovers b ox (oy + k) 8 q w = true) : spriteCovers s ox oy k q w = false := by
  simp [rowCovers] at h
  simp [spriteCovers, h.1.1]

/-- A pixel of the grid after `k` rows of the sprite are drawn: toggled exactly when the sprite covers it (rule
R131). -/
theorem State.lit_drawRows (s : State) (ox oy k q w : Nat) (hq : q ≤ 63) (hw : w ≤ 31) :
    Display.lit (s.drawRows ox oy k).display q w =
      (Display.lit s.display q w ^^ spriteCovers s ox oy k q w) := by
  induction k with
  | zero =>
    have : ¬ (ox ≤ q ∧ q < ox + 8 ∧ oy ≤ w ∧ w < oy + 0) := by omega
    rw [spriteCovers, decide_eq_false this]
    simp [State.drawRows]
  | succ k ih =>
    rw [State.drawRows, Canvas.lit_drawRow _ _ _ _ _ _ _ hq hw, ih, spriteCovers_succ]
    cases h : rowCovers (s.readByte (s.ea k)) ox (oy + k) 8 q w
    · simp
    · simp [spriteCovers_disjoint s ox oy k q w _ h]

/-- The collision flag after `k` rows of the sprite are drawn: whether the sprite covers a pixel of the grid
that was lit before (rule R131). -/
theorem State.collided_drawRows (s : State) (ox oy k : Nat) :
    (s.drawRows ox oy k).collided = true ↔
      ∃ q w, q ≤ 63 ∧ w ≤ 31 ∧ spriteCovers s ox oy k q w = true ∧ Display.lit s.display q w = true := by
  induction k with
  | zero =>
    simp only [State.drawRows, Bool.false_eq_true, false_iff]
    rintro ⟨q, w, -, -, h, -⟩
    simp [spriteCovers] at h
    omega
  | succ k ih =>
    rw [State.drawRows, Canvas.collided_drawRow, ih]
    constructor
    · rintro (⟨q, w, hq, hw, hc, hl⟩ | ⟨q, w, hq, hw, hc, hl⟩)
      · exact ⟨q, w, hq, hw, by simp [spriteCovers_succ, hc], hl⟩
      · rw [s.lit_drawRows ox oy k q w hq hw, spriteCovers_disjoint s ox oy k q w _ hc, Bool.xor_false] at hl
        exact ⟨q, w, hq, hw, by simp [spriteCovers_succ, hc], hl⟩
    · rintro ⟨q, w, hq, hw, hc, hl⟩
      rw [spriteCovers_succ, Bool.or_eq_true] at hc
      rcases hc with hc | hc
      · exact .inl ⟨q, w, hq, hw, hc, hl⟩
      · refine .inr ⟨q, w, hq, hw, hc, ?_⟩
        rw [s.lit_drawRows ox oy k q w hq hw, spriteCovers_disjoint s ox oy k q w _ hc, hl]
        rfl

end Sys2Proof.Machine
end

