-- ==== Sys2Proof/Tests/Slice0.lean ====
section
/-! SUPPORT. Tests: small theorems on fixed values. Expected results come from the spec: the vectors of
`95_test_vectors.md` (named T<part>.<row>) and the encodings of `30_encoding.md`. Each witness_<Name> shows
operands and a state that meet the hypotheses of the obligation <Name>. -/

namespace Sys2Proof.Tests

open Sys2Proof.Machine

/-! ## Builders -/

/-- The state of an answer. -/
def after : Host.Outcome State Fault Refusal → Option State
  | .next t => some t
  | _ => none

/-- One step with the word placed at `pc`. -/
def run (w : Nat) (s : State) : Option State := after (step (s.withFetchWord 16 w))

/-- One step that takes the event. -/
def event (e : Event) (s : State) : Option State := after (step (s.withEvents [e]))

/-- The reset state with registers set. -/
def withRegs (l : List (Reg × Byte)) : State := l.foldl (fun s p => s.setReg p.1 p.2) State.reset

/-- The state with bytes stored from an address upward. -/
def withBytes (s : State) (a : Nat) (l : List Byte) : State := s.storeImage a l

/-- The state with pixels of display row 0 lit. -/
def withRow0 (s : State) (r : BitVec 64) : State := { s with display := s.display.set 0 r }

/-- A halted core: T8.9, FAULT = (1, 0xB200). -/
def halted : State :=
  { State.reset with pc := 0x202, dt := 3, st := 1, fault := ⟨.illegalOpcode, 0xB200⟩, loadWindow := false }

/-! ## Well-formed words: each check refuses an ill-formed term (rule R66) -/

theorem test_refuse_family0 : wellFormedWord 0x00E1 = false ∧ decodeWord 0x00E1 = .error (.illegal .family0) := by
  decide
theorem test_refuse_family5 : wellFormedWord 0x5121 = false ∧ decodeWord 0x5121 = .error (.illegal .family5) := by
  decide
theorem test_refuse_family8 : wellFormedWord 0x8128 = false ∧ decodeWord 0x8128 = .error (.illegal .family8) := by
  decide
theorem test_refuse_family9 : wellFormedWord 0x9121 = false ∧ decodeWord 0x9121 = .error (.illegal .family9) := by
  decide
theorem test_refuse_familyB : wellFormedWord 0xB200 = false ∧ decodeWord 0xB200 = .error (.illegal .familyB) := by
  decide
theorem test_refuse_familyE : wellFormedWord 0xE09F = false ∧ decodeWord 0xE09F = .error (.illegal .familyE) := by
  decide
theorem test_refuse_familyF : wellFormedWord 0xF31F = false ∧ decodeWord 0xF31F = .error (.illegal .familyF) := by
  decide
theorem test_refuse_zero_word : wellFormedWord 0x0000 = false := by decide
theorem test_refuse_short : decode [] = .error .truncated ∧ decode [0x12] = .error .truncated := by decide
theorem test_accept_neighbours :
    wellFormedWord 0x00E0 = true ∧ wellFormedWord 0x00EE = true ∧ wellFormedWord 0x812E = true := by decide
theorem test_instr_wellFormed : (Instr.shr 0xA 0xB).wellFormed = true := by decide
theorem test_row_not_in_map : opcodeMap.contains ⟨0xF000, 0xB000⟩ = false := by decide

/-! ## A word of every instruction, written from the spec's encoding -/

theorem test_decode_control :
    decodeWord 0x00EE = .ok .ret ∧ decodeWord 0x1A2B = .ok (.jp 0xA2B) ∧
    decodeWord 0x2ABC = .ok (.call 0xABC) ∧ decodeWord 0x31C5 = .ok (.seVxNn 0x1 0xC5) ∧
    decodeWord 0x41C5 = .ok (.sneVxNn 0x1 0xC5) ∧ decodeWord 0x5120 = .ok (.seVxVy 0x1 0x2) ∧
    decodeWord 0x9120 = .ok (.sneVxVy 0x1 0x2) := by decide
theorem test_decode_load :
    decodeWord 0x6A2C = .ok (.ldVxNn 0xA 0x2C) ∧ decodeWord 0x73FE = .ok (.addVxNn 0x3 0xFE) ∧
    decodeWord 0xA30F = .ok (.ldINnn 0x30F) ∧ decodeWord 0xC35F = .ok (.rnd 0x3 0x5F) ∧
    decodeWord 0xF21E = .ok (.addIVx 0x2) ∧ decodeWord 0xF729 = .ok (.ldFVx 0x7) := by decide
theorem test_decode_alu :
    decodeWord 0x8AB0 = .ok (.ldVxVy 0xA 0xB) ∧ decodeWord 0x8AB1 = .ok (.or 0xA 0xB) ∧
    decodeWord 0x8AB2 = .ok (.and 0xA 0xB) ∧ decodeWord 0x8AB3 = .ok (.xor 0xA 0xB) ∧
    decodeWord 0x8AB4 = .ok (.addVxVy 0xA 0xB) ∧ decodeWord 0x8AB5 = .ok (.sub 0xA 0xB) ∧
    decodeWord 0x8AB6 = .ok (.shr 0xA 0xB) ∧ decodeWord 0x8AB7 = .ok (.subn 0xA 0xB) ∧
    decodeWord 0x8ABE = .ok (.shl 0xA 0xB) := by decide
theorem test_decode_display :
    decodeWord 0x00E0 = .ok .cls ∧ decodeWord 0xD7A5 = .ok (.drw 0x7 0xA 0x5) := by decide
theorem test_decode_keys_timers :
    decodeWord 0xE09E = .ok (.skp 0x0) ∧ decodeWord 0xEFA1 = .ok (.sknp 0xF) ∧
    decodeWord 0xF107 = .ok (.ldVxDt 0x1) ∧ decodeWord 0xF30A = .ok (.ldVxK 0x3) ∧
    decodeWord 0xF115 = .ok (.ldDtVx 0x1) ∧ decodeWord 0xF118 = .ok (.ldStVx 0x1) := by decide
theorem test_decode_memory :
    decodeWord 0xF533 = .ok (.ldBVx 0x5) ∧ decodeWord 0xF255 = .ok (.ldMiVx 0x2) ∧
    decodeWord 0xFF65 = .ok (.ldVxMi 0xF) := by decide
theorem test_fields :
    opN1 0xD7A5 = 0xD ∧ opX 0xD7A5 = 0x7 ∧ opY 0xD7A5 = 0xA ∧ opN 0xD7A5 = 0x5 ∧ opNN 0xD7A5 = 0xA5 ∧
    opNNN 0xD7A5 = 0x7A5 := by decide
theorem test_encode_words :
    encode (.jp 0xA2B) = 0x1A2B ∧ encode (.subn 0xA 0xB) = 0x8AB7 ∧ encode (.drw 0x7 0xA 0x5) = 0xD7A5 ∧
    encode (.sknp 0xF) = 0xEFA1 ∧ encodeBytes (.jp 0xA2B) = [0x1A, 0x2B] := by decide
theorem test_decode_table_word :
    decodeTableWord 16 0x1A2B = some (.jp 0xA2B) ∧ decodeTableWord 16 0xB200 = none := by decide

/-! ## One step of each instruction -/

-- T4.1
theorem test_cls :
    (run 0x00E0 (withRow0 (withRegs [(0xF, 1)]) 0x101)).map (fun t => (t.pixel 0, t.pixel 8, t.reg 0xF, t.pc)) =
      some (false, false, 1, 0x202) := by decide
-- T1.9
theorem test_ret :
    (run 0x00EE { State.reset with pc := 0x300, sp := 1, stack := State.reset.stack.set 0 0x206 }).map
      (fun t => (t.sp, t.pc, t.stack[0])) = some (0, 0x206, 0x206) := by decide
-- T1.11
theorem test_ret_empty :
    (run 0x00EE State.reset).map (fun t => (t.pc, t.sp, t.fault)) =
      some (0x202, 0, ⟨.stackUnderflow, 0x00EE⟩) := by decide
-- T1.1
theorem test_jp_odd : (run 0x1A2B State.reset).map (fun t => (t.pc, t.fault.code)) = some (0xA2B, .none) := by decide
-- T7.21
theorem test_jp_self_at_top : (run 0x1FFE { State.reset with pc := 0xFFE }).map (·.pc) = some 0xFFE := by decide
-- T1.6
theorem test_call_sixteenth :
    (run 0x2ABC { State.reset with sp := 15 }).map (fun t => (t.sp, t.stack[15], t.pc)) =
      some (16, 0x202, 0xABC) := by decide
-- T1.7
theorem test_call_full :
    (run 0x2ABC { State.reset with sp := 16 }).map (fun t => (t.sp, t.stack[15], t.pc, t.fault)) =
      some (16, 0, 0x202, ⟨.stackOverflow, 0x2ABC⟩) := by decide
-- T1.13, T1.14
theorem test_seVxNn :
    (run 0x3105 (withRegs [(1, 5)])).map (·.pc) = some 0x204 ∧
    (run 0x3105 (withRegs [(1, 6)])).map (·.pc) = some 0x202 := by decide
-- T1.24
theorem test_seVxNn_top : (run 0x3000 { State.reset with pc := 0xFFE }).map (·.pc) = some 0x1002 := by decide
-- T1.16, T1.17
theorem test_sneVxNn :
    (run 0x4105 (withRegs [(1, 5)])).map (·.pc) = some 0x202 ∧
    (run 0x4105 (withRegs [(1, 6)])).map (·.pc) = some 0x204 := by decide
-- T1.18, T1.19
theorem test_seVxVy :
    (run 0x5120 (withRegs [(1, 7), (2, 7)])).map (·.pc) = some 0x204 ∧
    (run 0x5120 (withRegs [(1, 7), (2, 8)])).map (·.pc) = some 0x202 := by decide
-- T1.21, T1.22
theorem test_sneVxVy :
    (run 0x9120 (withRegs [(1, 7), (2, 8)])).map (·.pc) = some 0x204 ∧
    (run 0x9120 (withRegs [(1, 7), (2, 7)])).map (·.pc) = some 0x202 := by decide
-- T2.1
theorem test_ldVxNn : (run 0x6A2C State.reset).map (fun t => (t.reg 0xA, t.pc)) = some (0x2C, 0x202) := by decide
-- T1.26
theorem test_ldVxNn_odd :
    (run 0x6A2C { State.reset with pc := 0x201 }).map (fun t => (t.reg 0xA, t.pc)) = some (0x2C, 0x203) := by decide
-- T2.4
theorem test_addVxNn :
    (run 0x70C8 (withRegs [(0, 0x9C), (0xF, 0x55)])).map (fun t => (t.reg 0, t.reg 0xF)) = some (0x64, 0x55) := by
  decide
-- T2.7
theorem test_addVxNn_vf : (run 0x7FFF (withRegs [(0xF, 1)])).map (·.reg 0xF) = some 0 := by decide
-- T3.1
theorem test_ldVxVy :
    (run 0x8120 (withRegs [(1, 0x11), (2, 0x22), (0xF, 9)])).map (fun t => (t.reg 1, t.reg 0xF)) =
      some (0x22, 9) := by decide
-- T3.3
theorem test_or :
    (run 0x8121 (withRegs [(1, 0xF0), (2, 0x0F), (0xF, 9)])).map (fun t => (t.reg 1, t.reg 0xF)) =
      some (0xFF, 9) := by decide
-- T3.4
theorem test_and :
    (run 0x8122 (withRegs [(1, 0xF0), (2, 0x3C), (0xF, 9)])).map (fun t => (t.reg 1, t.reg 0xF)) =
      some (0x30, 9) := by decide
-- T3.5
theorem test_xor :
    (run 0x8123 (withRegs [(1, 0xF0), (2, 0x3C), (0xF, 9)])).map (fun t => (t.reg 1, t.reg 0xF)) =
      some (0xCC, 9) := by decide
-- T3.9
theorem test_addVxVy :
    (run 0x8014 (withRegs [(0, 0xFE), (1, 1), (0xF, 1)])).map (fun t => (t.reg 0, t.reg 0xF)) =
      some (0xFF, 0) := by decide
-- T3.14
theorem test_addVxVy_vf : (run 0x8F14 (withRegs [(0xF, 1), (1, 2)])).map (·.reg 0xF) = some 0 := by decide
-- T3.17
theorem test_sub :
    (run 0x8015 (withRegs [(0, 0x10), (1, 0x20)])).map (fun t => (t.reg 0, t.reg 0xF)) = some (0xF0, 0) := by decide
-- T3.18
theorem test_sub_equal :
    (run 0x8015 (withRegs [(0, 5), (1, 5)])).map (fun t => (t.reg 0, t.reg 0xF)) = some (0, 1) := by decide
-- T3.28
theorem test_shr :
    (run 0x8126 (withRegs [(1, 4), (2, 0xFF)])).map (fun t => (t.reg 1, t.reg 0xF)) = some (2, 0) := by decide
-- T3.29
theorem test_shr_vf : (run 0x8F06 (withRegs [(0xF, 3)])).map (·.reg 0xF) = some 1 := by decide
-- T3.32
theorem test_subn :
    (run 0x8017 (withRegs [(0, 5), (1, 3)])).map (fun t => (t.reg 0, t.reg 1, t.reg 0xF)) =
      some (0xFE, 3, 0) := by decide
-- T3.35
theorem test_subn_vf : (run 0x8F17 (withRegs [(0xF, 5), (1, 3)])).map (·.reg 0xF) = some 0 := by decide
-- T3.36
theorem test_shl :
    (run 0x810E (withRegs [(1, 0x81)])).map (fun t => (t.reg 1, t.reg 0xF)) = some (2, 1) := by decide
-- T3.42
theorem test_shl_vf : (run 0x8F0E (withRegs [(0xF, 0x41)])).map (·.reg 0xF) = some 0 := by decide
-- T2.9
theorem test_ldINnn : (run 0xAFFF { State.reset with index := 0xABCD }).map (·.index) = some 0xFFF := by decide
-- T2.22
theorem test_rnd :
    (run 0xC300 (withRegs [(3, 0x55)])).map (fun t => (t.pc, t.draws)) = some (0x202, 1) := by decide
-- T4.8 and T4.11: clipped at the right edge, one collision
theorem test_drw_clipped :
    (run 0xD011 (withRow0 (withBytes { withRegs [(0, 0x3C)] with index := 0x300 } 0x300 [0xFF]) (1 <<< 61))).map
      (fun t => (t.pixel 60, t.pixel 61, t.pixel 63, t.pixel 0, t.reg 0xF)) =
      some (true, false, true, false, 1) := by decide
-- T4.14
theorem test_drw_vf_origin :
    (run 0xDFF1 (withBytes { withRegs [(0xF, 5)] with index := 0x300 } 0x300 [0x80])).map
      (fun t => (t.pixel 325, t.pixel 0, t.reg 0xF)) = some (true, false, 0) := by decide
-- T5.1, T5.2
theorem test_skp :
    (run 0xE19E { withRegs [(1, 7)] with keys := 0x0080 }).map (·.pc) = some 0x204 ∧
    (run 0xE19E { withRegs [(1, 7)] with keys := 0xFF7F }).map (·.pc) = some 0x202 := by decide
-- T5.7
theorem test_skp_fault :
    (run 0xE09E { withRegs [(0, 0x10)] with keys := 0xFFFF }).map (fun t => (t.pc, t.fault)) =
      some (0x202, ⟨.keyIndexOutOfRange, 0xE09E⟩) := by decide
-- T5.3, T5.4
theorem test_sknp :
    (run 0xE1A1 { withRegs [(1, 7)] with keys := 0x0080 }).map (·.pc) = some 0x202 ∧
    (run 0xE1A1 { withRegs [(1, 7)] with keys := 0x0000 }).map (·.pc) = some 0x204 := by decide
-- T5.8
theorem test_sknp_fault :
    (run 0xE0A1 (withRegs [(0, 0xFF)])).map (fun t => (t.pc, t.fault)) =
      some (0x202, ⟨.keyIndexOutOfRange, 0xE0A1⟩) := by decide
-- T5.15
theorem test_ldVxDt : (run 0xF107 { State.reset with dt := 0x2A }).map (·.reg 1) = some 0x2A := by decide
-- T5.10
theorem test_ldVxK :
    (run 0xF30A { withRegs [(3, 0x55)] with keys := 0x0280 }).map (fun t => (t.reg 3, t.pc)) =
      some (7, 0x202) := by decide
-- T5.9
theorem test_ldVxK_none :
    (run 0xF30A (withRegs [(3, 0x55)])).map (fun t => (t.reg 3, t.pc)) = some (0x55, 0x200) := by decide
-- T5.17
theorem test_ldDtVx :
    (run 0xF115 { withRegs [(1, 0x3C)] with st := 9 }).map (fun t => (t.dt, t.st)) = some (0x3C, 9) := by decide
-- T5.19
theorem test_ldStVx :
    (run 0xF118 { withRegs [(1, 5)] with dt := 9 }).map (fun t => (t.st, t.dt)) = some (5, 9) := by decide
-- T2.12
theorem test_addIVx :
    (run 0xF21E { withRegs [(2, 1)] with index := 0xFFF }).map (fun t => (t.index, t.reg 0xF)) =
      some (0x1000, 0) := by decide
-- T2.14
theorem test_addIVx_wraps :
    (run 0xF21E { withRegs [(2, 0xFF)] with index := 0xFFFF }).map (·.index) = some 0xFE := by decide
-- T2.18, T2.20
theorem test_ldFVx :
    (run 0xF029 (withRegs [(0, 0x0F)])).map (·.index) = some 0x4B ∧
    (run 0xF029 (withRegs [(0, 0xFF)])).map (·.index) = some 0x4FB := by decide
-- T6.6
theorem test_ldBVx_wraps :
    (run 0xF033 { withRegs [(0, 0x7B)] with index := 0xFFE }).map
      (fun t => (t.readByte 0xFFE, t.readByte 0xFFF, t.readByte 0x000, t.index)) = some (1, 2, 3, 0xFFE) := by decide
-- T6.5: the zeros are written over what was there
theorem test_ldBVx_zeros :
    (run 0xF033 (withBytes { withRegs [(0, 0x64)] with index := 0x300 } 0x300 [9, 9, 9])).map
      (fun t => (t.readByte 0x300, t.readByte 0x301, t.readByte 0x302)) = some (1, 0, 0) := by decide
-- T6.8
theorem test_ldMiVx :
    (run 0xF255 { withRegs [(0, 0x11), (1, 0x22), (2, 0x33), (3, 0x44)] with index := 0x300 }).map
      (fun t => (t.readByte 0x300, t.readByte 0x302, t.readByte 0x303, t.index)) =
      some (0x11, 0x33, 0, 0x300) := by decide
-- T6.11
theorem test_ldMiVx_wraps :
    (run 0xF355 { withRegs [(0, 0xA1), (1, 0xA2), (2, 0xA3), (3, 0xA4)] with index := 0xFFE }).map
      (fun t => (t.readByte 0xFFE, t.readByte 0xFFF, t.readByte 0, t.readByte 1, t.readByte 2)) =
      some (0xA1, 0xA2, 0xA3, 0xA4, State.reset.readByte 2) := by decide
-- T6.13
theorem test_ldVxMi :
    (run 0xF165 (withBytes { withRegs [(2, 0x77)] with index := 0x300 } 0x300 [0xAA, 0xBB, 0xCC])).map
      (fun t => (t.reg 0, t.reg 1, t.reg 2, t.index)) = some (0xAA, 0xBB, 0x77, 0x300) := by decide
-- T6.19
theorem test_ldVxMi_code :
    (run 0xF165 { State.reset with index := 0x200 }).map (fun t => (t.reg 0, t.reg 1)) =
      some (0xF1, 0x65) := by decide
-- T2.22: mask 0 gives 0 whatever the byte is
theorem test_rnd_mask0 : (run 0xC300 (withRegs [(3, 0x55)])).map (·.reg 3) = some 0 := by
  change some (Config.rnd 0 &&& 0#8) = some 0
  rw [BitVec.and_zero]
  rfl

/-! ## Faults and fetch -/

-- T7.2
theorem test_zero_memory_faults :
    (event .step State.reset).map (fun t => (t.pc, t.fault)) = some (0x202, ⟨.illegalOpcode, 0⟩) := by decide
-- T7.6: no skip
theorem test_illegal_word :
    (run 0x5121 (withRegs [(1, 1), (2, 1)])).map (fun t => (t.pc, t.fault)) =
      some (0x202, ⟨.illegalOpcode, 0x5121⟩) := by decide
-- T7.16, T7.19
theorem test_fetch_out_of_range :
    (event .step { State.reset with pc := 0xFFF }).map (fun t => (t.pc, t.fault)) =
      some (0xFFF, ⟨.fetchOutOfRange, 0⟩) ∧
    (event .step { State.reset with pc := 0x1002 }).map (fun t => (t.pc, t.fault)) =
      some (0x1002, ⟨.fetchOutOfRange, 0⟩) := by decide
-- T7.20
theorem test_last_fetch : (run 0x6012 { State.reset with pc := 0xFFE }).map (fun t => (t.reg 0, t.pc)) =
    some (0x12, 0x1000) := by decide

/-! ## Events -/

-- T8.3
theorem test_tick :
    (event .tick { State.reset with dt := 1, st := 0xFF }).map (fun t => (t.dt, t.st)) = some (0, 0xFE) := by decide
-- T8.2
theorem test_tick_zero : (event .tick State.reset).map (fun t => (t.dt, t.st)) = some (0, 0) := by decide
-- T8.6
theorem test_keys :
    (event (.keys 0x0081) State.reset).map (fun t => (t.keyDown 0, t.keyDown 7, t.keyDown 1)) =
      some (true, true, false) := by decide
-- T8.9
theorem test_halted_step : event .step halted = some halted := by decide
-- T8.10
theorem test_halted_tick :
    (event .tick halted).map (fun t => (t.dt, t.st, t.fault)) = some (2, 0, ⟨.illegalOpcode, 0xB200⟩) := by decide
-- T8.12
theorem test_halted_load : event (.load [0x12, 0x00]) halted = some halted := by decide
-- T8.13
theorem test_reset_from_halt :
    event .reset { halted with mem := [(0x300, 0x77)], keys := 8, index := 0x345 } = some State.reset := by decide
-- T8.14
theorem test_load :
    (event (.load [0x12, 0x00]) State.reset).map (fun t => (t.readByte 0x200, t.readByte 0x201, t.pc)) =
      some (0x12, 0x00, 0x200) := by decide
-- T8.15
theorem test_load_late :
    (event (.load [0x12]) { State.reset with loadWindow := false }).map (·.readByte 0x200) = some 0 := by decide
-- T8.17
theorem test_observe : event .observe State.reset = some State.reset := by decide
-- R28, R167: the host reads registers, pc, SP and the latch of a halted core
theorem test_observe_registers :
    (halted.setReg 3 7).observe.v[3] = 7 ∧ halted.observe.pc = 0x202 ∧ halted.observe.sp = 0 ∧
    halted.observe.faultCode = 1 ∧ halted.observe.faultOpcode = 0xB200 := by decide
-- R28, R54: the host reads memory, the last address included
theorem test_observe_memory : (State.reset.writeByte 0xFFF 7).observe.mem[0xFFF] = 7 := by
  refine (State.observe_mem _ 0xFFF).trans ?_
  decide
-- R26: the schedule is taken from its head
theorem test_schedule_order :
    (after (step ({ State.reset with dt := 9 }.withEvents [.tick, .step]))).map (fun t => (t.dt, t.environment)) =
      some (8, ⟨[.step], [], 0⟩) := by decide
-- R5, R26: an endless interleaving, here a TICK and two STEPs for ever, starts its cycle again
theorem test_endless_schedule :
    (after (step { State.reset with dt := 9, environment := ⟨[], [.tick, .step, .step], 0⟩ })).map
      (fun t => (t.dt, t.environment)) = some (8, ⟨[.step, .step], [.tick, .step, .step], 0⟩) := by decide
-- R5, R26: with nothing planned the event is free, whichever the host chooses
theorem test_free_event :
    step State.reset = handle (Config.event 0) { State.reset with environment := ⟨[], [], 1⟩ } := rfl
-- the canonical form: the value an unlisted address reads as removes the entry
theorem test_memory_canonical :
    ((State.reset.writeByte 0x300 7).writeByte 0x300 0).mem = [] ∧
    ((State.reset.writeByte 0x300 7).writeByte 0x200 1).mem = [(0x200, 1), (0x300, 7)] := by decide
theorem test_memory_ill_formed :
    Memory.wf defaultFont [(0x300, 7), (0x200, 1)] = false ∧ Memory.wf defaultFont [(0x300, 0)] = false ∧
    Memory.wf defaultFont [(0x1000, 1)] = false := by decide

/-! ## Witnesses: the hypotheses of each obligation can be met -/

/-- A reset core at `pc`, with the word placed there. -/
def at' (pc w : Word) : State := { State.reset with pc := pc }.storeAtPc w

theorem witness_EncodeOfDecodeIsTheWord : decodeWord 0x8AB6 = .ok (.shr 0xA 0xB) := by decide
theorem witness_DecodeFollowsTheOpcodeMap :
    (∃ r ∈ opcodeMap, ∃ q ∈ opcodeMap, r.matches 0x8ABE ∧ q.matches 0x8ABE) ∧
    decodeWord 0x8ABE = .ok (.shl 0xA 0xB) := by decide
theorem witness_StepRunsTheDecodedInstruction :
    ((at' 0xFFE 0x6012).withEvents [.step]).nextEvent = (.step, at' 0xFFE 0x6012) ∧ (at' 0xFFE 0x6012).fault.code = .none ∧
    (at' 0xFFE 0x6012).pc.toNat ≤ 0x0FFE ∧
    decode [(at' 0xFFE 0x6012).readByte (BitVec.ofNat 12 0xFFE),
      (at' 0xFFE 0x6012).readByte (BitVec.ofNat 12 0xFFF)] = .ok (.ldVxNn 0 0x12, []) := by decide
theorem witness_EveryEventHasANextState :
    (State.reset.withEvents [.tick]).nextEvent = (.tick, State.reset) ∧
    (⟨[.tick], [], 0⟩ : Environment).schedule = .tick :: [] ∧ (⟨[], [.tick], 0⟩ : Environment).schedule = [] ∧
    (⟨[], [.tick], 0⟩ : Environment).repeats = .tick :: [] ∧ State.reset.environment.schedule = [] ∧
    State.reset.environment.repeats = [] := by decide
theorem witness_FetchIsBigEndian : (at' 0xFFE 0x6012).pc.toNat ≤ 0x0FFE := by decide
theorem witness_StoreIsSeenByTheNextFetch : (at' 0x000 0x6012).pc.toNat ≤ 0x0FFE := by decide
theorem witness_FetchOutOfRangeFault :
    ((at' 0xFFF 0).withEvents [.step]).nextEvent = (.step, at' 0xFFF 0) ∧ (at' 0xFFF 0).fault.code = .none ∧
    0x0FFE < (at' 0xFFF 0).pc.toNat := by decide
theorem witness_IllegalOpcodeFault :
    ((at' 0xFFE 0xB200).withEvents [.step]).nextEvent = (.step, at' 0xFFE 0xB200) ∧ (at' 0xFFE 0xB200).fault.code = .none ∧
    (at' 0xFFE 0xB200).pc.toNat ≤ 0x0FFE ∧ wellFormedWord (at' 0xFFE 0xB200).fetchWord = false := by decide

/-- A running core whose STEP leaves a halted one. -/
def faults (s : State) (code : BitVec 3) : Prop :=
  (s.withEvents [.step]).nextEvent = (.step, s) ∧ s.fault.code = .none ∧
    (event .step s).map (fun t => (t.fault.code.number, t.fault.code == .none)) = some (code, false)

theorem witness_FaultsAreExactlyTheFive :
    faults (at' 0x200 0xB200) 1 ∧ faults { at' 0x200 0x2300 with sp := 16 } 2 ∧ faults (at' 0x200 0x00EE) 3 ∧
    faults (at' 0xFFF 0) 4 ∧ faults ((at' 0x200 0xE1A1).setReg 1 16) 5 := by
  unfold faults
  decide
theorem witness_FaultEntryWritesTheLatchAlone :
    faults (at' 0xFFF 0) 4 ∧ faults (at' 0xFFE 0xB200) 1 := by
  unfold faults
  decide
theorem witness_HaltedCoreTakesNoStep :
    ∀ e ∈ [Event.step, .observe, .load [1], .tick, .keys 2],
      (halted.withEvents [e]).nextEvent = (e, halted) ∧ halted.fault.code ≠ .none := by decide
theorem witness_OnlyResetClearsTheLatch :
    halted.fault.code ≠ .none ∧ ∀ e ∈ [Event.tick, .reset],
      (halted.withEvents [e]).nextEvent = (e, halted) ∧ (event e halted).isSome := by decide
theorem witness_ResetStateHoldsTheTableOfValues :
    (0x04F : Addr).toNat < 80 ∧ 80 ≤ (0x050 : Addr).toNat ∧ ([0x12, 0x00] : List Byte).length ≤ 3584 ∧
    (0x1FF : Addr).toNat < 0x200 ∧ 0x200 + ([0x12, 0x00] : List Byte).length ≤ (0x202 : Addr).toNat := by decide
theorem witness_ResetEventRestoresEveryPiece :
    (halted.withEvents [.reset]).nextEvent = (.reset, halted) := by decide
theorem witness_TickDecrementsBothTimers :
    (State.reset.withEvents [.tick]).nextEvent = (.tick, State.reset) := by decide
theorem witness_TimersRiseOnlyByTheirInstruction :
    (((at' 0x200 0xF115).setReg 1 5).withEvents [.step]).nextEvent = (.step, (at' 0x200 0xF115).setReg 1 5) ∧
    (event .step ((at' 0x200 0xF115).setReg 1 5)).map (·.dt) = some 5 ∧
    (((at' 0x200 0xF118).setReg 1 5).withEvents [.step]).nextEvent = (.step, (at' 0x200 0xF118).setReg 1 5) ∧
    (event .step ((at' 0x200 0xF118).setReg 1 5)).map (·.st) = some 5 := by decide
theorem witness_KeysEventReplacesAllFlags :
    (State.reset.withEvents [.keys 0x8001]).nextEvent = (.keys 0x8001, State.reset) := by decide
theorem witness_LoadCopiesTheImage (image : List Byte) :
    (State.reset.withEvents [.load image]).nextEvent = (.load image, State.reset) ∧
    State.reset.fault.code = .none ∧ State.reset.loadWindow = true := ⟨rfl, rfl, rfl⟩
theorem witness_LoadCopiesTheImage_longest : (List.replicate 3584 (0xFF : Byte)).length ≤ 3584 :=
  Nat.le_of_eq List.length_replicate
theorem witness_LoadCopiesTheImage_too_long : 3584 < (List.replicate 3585 (0xFF : Byte)).length :=
  Nat.lt_of_lt_of_eq (Nat.lt_succ_self 3584) List.length_replicate.symm

/-- A running core whose load window is closed. -/
def late : State := { State.reset with loadWindow := false }

theorem witness_LoadIsAcceptedOnlyInItsWindow_refused :
    (late.withEvents [.load [1]]).nextEvent = (.load [1], late) ∧ late.loadWindow = false ∧
    (halted.withEvents [.load [1]]).nextEvent = (.load [1], halted) ∧ halted.fault.code ≠ .none := by decide
theorem witness_LoadIsAcceptedOnlyInItsWindow_accepted :
    (State.reset.withEvents [.load [1]]).nextEvent = (.load [1], State.reset) ∧
    State.reset.fault.code = .none ∧ [1].length ≤ 3584 ∧ (event (.load [1]) State.reset).isSome := by decide
theorem witness_LoadIsAcceptedOnlyInItsWindow_events :
    ∀ e ∈ [Event.reset, .step, .tick, .observe, .keys 1],
      (State.reset.withEvents [e]).nextEvent = (e, State.reset) ∧ (event e State.reset).isSome := by decide
theorem witness_FirstStepRunsTheImage :
    [0x12, 0x00, 0xFF].length ≤ 3584 ∧ decodeWord ((0x12 : Byte) ++ (0x00 : Byte)) = .ok (.jp 0x200) := by decide
theorem witness_ObserveShowsEveryPieceAndChangesNothing :
    (halted.withEvents [.observe]).nextEvent = (.observe, halted) ∧ Piece.byte 0xFFF ≠ .draws := by decide

/-- A state at the edge of the invariant: the highest `pc`, a full stack of the highest return addresses, a byte
of memory written. -/
def edge : State :=
  { State.reset with
    pc := 0x1002, sp := 16, stack := Vector.replicate 16 0x1000, mem := [(0xFFF, 1)], loadWindow := false }

theorem witness_EveryStepKeepsTheInvariant : (edge.withEvents [.step]).Inv ∧ ∃ t, step (edge.withEvents [.step]) = .next t :=
  ⟨⟨by decide, by decide, by decide, rfl, by intro h; cases h⟩, _, rfl⟩
theorem witness_InstructionsChangeOnlyWhatTheyAssign : ∃ t, exec (.ldMiVx 0xF) edge = .next t := ⟨_, rfl⟩
theorem witness_FlagRegisterIsWrittenByItsSixInstructions :
    writesFlag (.drw 0xF 0xF 1) = true ∧ (∃ t, exec (.drw 0xF 0xF 1) edge = .next t) ∧
    writesFlag (.ldVxMi 0xE) = false ∧ namesDestination 0xF#4 (.ldVxMi 0xE) = false ∧
    ∃ t, exec (.ldVxMi 0xE) edge = .next t := ⟨rfl, ⟨_, rfl⟩, rfl, by decide, _, rfl⟩
theorem witness_RandomByteIsReadOnlyByRnd :
    (∀ x nn, Instr.ldMiVx 0xF ≠ .rnd x nn) ∧ ∃ t, exec (.ldMiVx 0xF) edge = .next t :=
  ⟨(by intro x nn h; cases h), _, rfl⟩
theorem witness_CallPushesThePcOrOverflows :
    (0 : Fin 16).val = State.reset.sp.val ∧ (15 : Fin 16).val = { State.reset with sp := 15 }.sp.val ∧
    edge.sp.val = 16 := by decide
theorem witness_RetPopsThePcOrUnderflows :
    (0 : Fin 16).val + 1 = { State.reset with sp := 1 }.sp.val ∧ (15 : Fin 16).val + 1 = edge.sp.val ∧
    State.reset.sp.val = 0 := by decide
theorem witness_CallThenRetComesBack :
    ∃ t, { State.reset with sp := 15 }.sp.val < 16 ∧ exec (.call 0x300) { State.reset with sp := 15 } = .next t ∧
      (t.setReg 3 7).sp = t.sp ∧ (t.setReg 3 7).stack = t.stack := ⟨_, by decide, rfl, rfl, rfl⟩
theorem witness_SelfJumpIdles :
    ((at' 0xFFE 0x1FFE).withEvents [.step]).nextEvent = (.step, at' 0xFFE 0x1FFE) ∧ (at' 0xFFE 0x1FFE).fault.code = .none ∧
    (at' 0xFFE 0x1FFE).pc.toNat ≤ 0x0FFE ∧ (at' 0xFFE 0x1FFE).pc.toNat = (0xFFE : Addr).toNat ∧
    decodeWord (at' 0xFFE 0x1FFE).fetchWord = .ok (.jp 0xFFE) := by decide
theorem witness_EvenTargetsKeepThePcEven :
    ((at' 0x200 0x1202).withEvents [.step]).pcEven ∧
    decodeWord ((at' 0x200 0x1202).withEvents [.step]).fetchWord = .ok (.jp 0x202) ∧
    (0x202 : Addr).toNat % 2 = 0 ∧ ∃ t, step ((at' 0x200 0x1202).withEvents [.step]) = .next t :=
  ⟨⟨by decide, by decide⟩, by decide, by decide, _, rfl⟩
theorem witness_RandomIsMasked : (0x0F : Byte).getLsbD 4 = false := by decide
theorem witness_AluResultNotInVf : (0xE#4 : Reg) ≠ 0xF#4 := by decide
theorem witness_DrawXorsTheSprite_collision :
    let s := withRow0 (withBytes { State.reset with index := 0x300 } 0x300 [0xFF]) (1 <<< 7)
    ∃ p < 2048, s.pixel p = true ∧
      spriteCovers s ((s.reg 0).toNat % 64) ((s.reg 1).toNat % 32) 1 (p % 64) (p / 64) = true :=
  ⟨7, by decide, by decide, by decide⟩
theorem witness_DrawXorsTheSprite_no_collision :
    ∀ p < 2048, State.reset.pixel p = true →
      spriteCovers State.reset ((State.reset.reg 0).toNat % 64) ((State.reset.reg 1).toNat % 32) 15 (p % 64)
        (p / 64) = false := by
  intro p _ h
  simp [State.pixel, Display.lit, State.reset, State.resetWith] at h
/-- The reset core after it drew glyph 0 of the default FONT at the origin. -/
def drawn : State := (State.reset.setDisplay (State.reset.drawRows 0 0 5).display).setReg 0xF 0

theorem witness_DrawingTwiceRestoresTheDisplay :
    exec (.drw 0 1 5) State.reset = .next drawn ∧ (drawn.setReg 3 7).display = drawn.display ∧
      (drawn.setReg 3 7).index = State.reset.index ∧
      ((drawn.setReg 3 7).reg 0).toNat % 64 = (State.reset.reg 0).toNat % 64 ∧
      ((drawn.setReg 3 7).reg 1).toNat % 32 = (State.reset.reg 1).toNat % 32 ∧ drawn.reg 0xF#4 = 0 ∧
      spriteCovers State.reset 0 0 5 0 0 = true :=
  ⟨rfl, rfl, rfl, by decide, by decide, by decide, by decide⟩
theorem witness_DrawingTwiceRestoresTheDisplay_memory (a : Addr) :
    (drawn.setReg 3 7).readByte a = State.reset.readByte a := by
  unfold State.readByte
  rfl
theorem witness_KeySkipsAdvanceThePcOrFault :
    ((withRegs [(1, 15)]).reg 1).toNat ≤ 15 ∧ { withRegs [(1, 15)] with keys := 0x8000 }.keyDown 15 = true ∧
    (withRegs [(1, 15)]).keyDown 15 = false ∧ 15 < ((withRegs [(1, 16)]).reg 1).toNat := by decide
theorem witness_KeyWaitTakesTheLowestKeyOrRewinds :
    15 < 16 ∧ { State.reset with keys := 0x8000 }.keyDown 15 = true ∧
    (∀ j < 15, { State.reset with keys := 0x8000 }.keyDown j = false) ∧
    { State.reset with keys := 0xFFFF }.keyDown 0 = true ∧ ∀ k < 16, State.reset.keyDown k = false := by decide
theorem witness_KeyWaitWithNoKeyRepeats :
    ((at' 0x200 0xF30A).withEvents [.step]).nextEvent = (.step, at' 0x200 0xF30A) ∧ (at' 0x200 0xF30A).fault.code = .none ∧
    (at' 0x200 0xF30A).pc.toNat ≤ 0x0FFE ∧ decodeWord (at' 0x200 0xF30A).fetchWord = .ok (.ldVxK 3) ∧
    ∀ k < 16, (at' 0x200 0xF30A).keyDown k = false := by decide
/-- A state that differs from `t` in a register alone meets the conditions on the second state. -/
theorem witness_StoreThenLoadRestoresRegisters_second (t : State) :
    (t.setReg 3 7).index = t.index ∧ ∀ a, (t.setReg 3 7).readByte a = t.readByte a := ⟨rfl, fun _ => rfl⟩
theorem witness_StoreThenLoadRestoresRegisters :
    ∃ t, exec (.ldMiVx 0xF) edge = .next t ∧ (t.setReg 3 7).index = t.index ∧
      ∀ a, (t.setReg 3 7).readByte a = t.readByte a :=
  ⟨_, rfl, witness_StoreThenLoadRestoresRegisters_second _⟩

end Sys2Proof.Tests
end

section
/-! SUPPORT. The frame rule R7, instruction by instruction: each meaning is built from the shared operations, so
its frame is put together from theirs (`Sys2Proof/Laws/Frame.lean`). -/

namespace Sys2Proof.Machine

/-- The frame of the state an instruction answers is the frame of the instruction. -/
theorem OnlyChanges.of_next {s t u : State} {w : Set Piece} (hu : OnlyChanges s u w)
    (h : (.next u : Result) = .next t) : OnlyChanges s t w :=
  Host.Outcome.next.inj h ▸ hu

/-! ## Instructions that can raise

One of two ways on: the effect, or the latch with nothing else changed. -/

/-- 00EE (rules R84, R86, R164). -/
theorem onlyChanges_execRet {s t : State} (h : execRet s = .next t) :
    OnlyChanges s t ({.pc, .sp} ∪ theLatch) := by
  unfold execRet at h
  split at h
  · next a u hpop =>
    have hframe := (s.onlyChanges_pop a u hpop).then (u.onlyChanges_setPc a)
    rw [Set.union_comm] at hframe
    exact (hframe.mono Set.subset_union_left).of_next h
  · exact ((s.onlyChanges_raise _ _).mono Set.subset_union_right).of_next h

/-- 2nnn (rules R83, R85, R163): the slot written is the one SP points at. -/
theorem onlyChanges_execCall {nnn : Addr} {s t : State} (h : execCall nnn s = .next t) :
    OnlyChanges s t ({.pc, .sp} ∪ {q | ∃ k : Fin 16, k.val = s.sp.val ∧ q = .stack k} ∪ theLatch) := by
  by_cases hsp : s.sp.val < 16
  · have hpush := s.push_of_lt s.pc hsp
    have hframe := (s.onlyChanges_push s.pc ⟨s.sp.val, hsp⟩ rfl _ hpush).then
      (State.onlyChanges_setPc _ (zextAddr nnn))
    rw [execCall, hpush] at h
    refine (hframe.mono ?_).of_next h
    rintro q ((rfl | rfl) | rfl)
    · exact .inl (.inl (.inr rfl))
    · exact .inl (.inr ⟨_, rfl, rfl⟩)
    · exact .inl (.inl (.inl rfl))
  · rw [execCall, s.push_of_full s.pc (by omega)] at h
    exact ((s.onlyChanges_raise _ _).mono Set.subset_union_right).of_next h

/-- Ex9E (rules R140, R165). -/
theorem onlyChanges_execSkp {x : Reg} {s t : State} (h : execSkp x s = .next t) :
    OnlyChanges s t ({.pc} ∪ theLatch) := by
  unfold execSkp at h
  split at h
  · exact ((s.onlyChanges_skipIf _).mono Set.subset_union_left).of_next h
  · exact ((s.onlyChanges_raise _ _).mono Set.subset_union_right).of_next h

/-- ExA1 (rules R141, R165). -/
theorem onlyChanges_execSknp {x : Reg} {s t : State} (h : execSknp x s = .next t) :
    OnlyChanges s t ({.pc} ∪ theLatch) := by
  unfold execSknp at h
  split at h
  · exact ((s.onlyChanges_skipIf _).mono Set.subset_union_left).of_next h
  · exact ((s.onlyChanges_raise _ _).mono Set.subset_union_right).of_next h

/-! ## Instructions of several operations -/

/-- Fx0A (rule R142): the key to `V[x]`, or `pc` back. -/
theorem onlyChanges_execLdVxK {x : Reg} {s t : State} (h : execLdVxK x s = .next t) :
    OnlyChanges s t {.v x, .pc} := by
  unfold execLdVxK at h
  split at h
  · exact ((s.onlyChanges_setReg x _).mono (by simp)).of_next h
  · exact ((s.onlyChanges_setPc (s.pc - 2)).mono (by simp)).of_next h

/-- Dxyn (rule R131): whatever the sprite, the display and then VF. -/
theorem onlyChanges_execDrw {x y : Reg} {n : Nibble} {s t : State} (h : execDrw x y n s = .next t) :
    OnlyChanges s t ({.v 0xF#4} ∪ allPixels) := by
  rw [Set.union_comm]
  exact ((s.onlyChanges_setDisplay _).then (State.onlyChanges_setReg _ vf _)).of_next h

/-- A byte stored at one of the `n` addresses of a data access of `s`, by then in the state `u` (rule R46). -/
theorem State.onlyChanges_writeByte_ea (s u : State) {k n : Nat} (hk : k < n) (b : Byte) :
    OnlyChanges u (u.writeByte (s.ea k) b) (dataBytes s n) :=
  (u.onlyChanges_writeByte _ b).mono fun _ hq => ⟨k, hk, hq⟩

/-- Fx33 (rule R150): the three bytes at `EA(0)` to `EA(2)`. -/
theorem onlyChanges_execLdBVx {x : Reg} {s t : State} (h : execLdBVx x s = .next t) :
    OnlyChanges s t (dataBytes s 3) := by
  refine OnlyChanges.of_next ?_ h
  exact ((s.onlyChanges_writeByte_ea _ (by decide) _).trans
    (s.onlyChanges_writeByte_ea _ (by decide) _)).trans (s.onlyChanges_writeByte_ea _ (by decide) _)

/-- Fx65 (rule R152): the registers up to `V[x]`. -/
theorem onlyChanges_execLdVxMi {x : Reg} {s t : State} (h : execLdVxMi x s = .next t) :
    OnlyChanges s t {q | ∃ r : Reg, r.toNat ≤ x.toNat ∧ q = .v r} := by
  refine ((s.onlyChanges_loadRegs (x.toNat + 1) x.isLt).mono ?_).of_next h
  rintro q ⟨r, hr, rfl⟩
  exact ⟨r, Nat.le_of_lt_succ hr, rfl⟩

/-! ## All instructions -/

/-- Settles O28, by cases on the instruction: the frame of its meaning lies in its row of `writes`. -/
theorem instructionsChangeOnlyWhatTheyAssign : Obligations.InstructionsChangeOnlyWhatTheyAssign := by
  intro i s t h
  cases i with
  | ret => exact onlyChanges_execRet h
  | call => exact onlyChanges_execCall h
  | skp => exact onlyChanges_execSkp h
  | sknp => exact onlyChanges_execSknp h
  | jp => exact (s.onlyChanges_setPc _).of_next h
  | seVxNn | sneVxNn | seVxVy | sneVxVy => exact (s.onlyChanges_skipIf _).of_next h
  | ldVxNn | addVxNn | ldVxVy | or | and | xor | ldVxDt => exact (s.onlyChanges_setReg _ _).of_next h
  | addVxVy | sub | shr | subn | shl => exact (s.onlyChanges_setResultThenFlag _ _ _).of_next h
  | ldINnn | addIVx | ldFVx => exact (s.onlyChanges_setIndex _).of_next h
  | rnd => exact ((s.onlyChanges_setReg _ _).then (State.onlyChanges_nextDraw _)).of_next h
  | cls => exact (s.onlyChanges_setDisplay _).of_next h
  | drw => exact onlyChanges_execDrw h
  | ldVxK => exact onlyChanges_execLdVxK h
  | ldDtVx => exact (s.onlyChanges_setDt _).of_next h
  | ldStVx => exact (s.onlyChanges_setSt _).of_next h
  | ldBVx => exact onlyChanges_execLdBVx h
  | ldMiVx => exact (s.onlyChanges_storeRegs _).of_next h
  | ldVxMi => exact onlyChanges_execLdVxMi h

end Sys2Proof.Machine
end

section
/-! SUPPORT. What each meaning that has several ways on answers, and that every event answers a next state (rules
R25, R80; end of part 1 of `93_implementation_defined.md`). -/

namespace Sys2Proof.Machine

/-! ## The meanings with several ways on -/

/-- 00EE (rules R86, R164): the slot below SP to `pc`, or the latch. -/
theorem execRet_answers (s : State) :
    (∃ k : Fin 16, k.val + 1 = s.sp.val ∧
      execRet s = .next (State.setPc { s with sp := k.castSucc } s.stack[k])) ∨
    execRet s = .next (s.raise .stackUnderflow (encode .ret)) := by
  by_cases hsp : s.sp.val = 0
  · exact .inr (by rw [execRet, s.pop_of_empty hsp])
  · have hk : s.sp.val - 1 + 1 = s.sp.val := by omega
    exact .inl ⟨⟨s.sp.val - 1, by omega⟩, hk, by rw [execRet, s.pop_of_pos ⟨s.sp.val - 1, by omega⟩ hk]⟩

/-- 2nnn (rules R85, R163): the advanced `pc` pushed and the target to `pc`, or the latch. -/
theorem execCall_answers (nnn : Addr) (s : State) :
    (∃ h : s.sp.val < 16, execCall nnn s = .next (State.setPc
      { s with stack := s.stack.set s.sp.val s.pc h, sp := ⟨s.sp.val + 1, Nat.succ_lt_succ h⟩ } (zextAddr nnn))) ∨
    execCall nnn s = .next (s.raise .stackOverflow (encode (.call nnn))) := by
  by_cases hsp : s.sp.val < 16
  · exact .inl ⟨hsp, by rw [execCall, s.push_of_lt s.pc hsp]⟩
  · exact .inr (by rw [execCall, s.push_of_full s.pc (by omega)])

/-- Ex9E (rules R140, R165): a skip, taken or not, or the latch. -/
theorem execSkp_answers (x : Reg) (s : State) :
    (∃ c, execSkp x s = .next (s.skipIf c)) ∨
    execSkp x s = .next (s.raise .keyIndexOutOfRange (encode (.skp x))) := by
  cases hk : keyIndex (s.reg x) with
  | some k => exact .inl ⟨_, by rw [execSkp, hk]⟩
  | none => exact .inr (by rw [execSkp, hk])

/-- ExA1 (rules R141, R165): a skip, taken or not, or the latch. -/
theorem execSknp_answers (x : Reg) (s : State) :
    (∃ c, execSknp x s = .next (s.skipIf c)) ∨
    execSknp x s = .next (s.raise .keyIndexOutOfRange (encode (.sknp x))) := by
  cases hk : keyIndex (s.reg x) with
  | some k => exact .inl ⟨_, by rw [execSknp, hk]⟩
  | none => exact .inr (by rw [execSknp, hk])

/-- Fx0A (rule R142): a key to `V[x]`, or `pc` back. -/
theorem execLdVxK_answers (x : Reg) (s : State) :
    (∃ b, execLdVxK x s = .next (s.setReg x b)) ∨ execLdVxK x s = .next s.rewind := by
  cases hk : s.firstKey with
  | some k => exact .inl ⟨_, by rw [execLdVxK, hk]⟩
  | none => exact .inr (by rw [execLdVxK, hk])

theorem State.wf_skipIf (s : State) (c : Bool) (h : Memory.wf s.font s.mem = true) :
    Memory.wf (s.skipIf c).font (s.skipIf c).mem = true := by
  rw [State.skipIf_eq]
  exact h

/-- Every instruction answers a next state in every state, and the canonical form of memory with it: an instruction
writes bytes, or leaves the memory list alone. -/
theorem exec_answers_wf (i : Instr) (s : State) : ∃ t, exec i s = .next t ∧
    (Memory.wf s.font s.mem = true → Memory.wf t.font t.mem = true) := by
  cases i with
  | ret => obtain ⟨k, -, h⟩ | h := execRet_answers s <;> exact ⟨_, h, id⟩
  | call nnn => obtain ⟨hsp, h⟩ | h := execCall_answers nnn s <;> exact ⟨_, h, id⟩
  | ldVxK x => obtain ⟨b, h⟩ | h := execLdVxK_answers x s <;> exact ⟨_, h, id⟩
  | skp x =>
    obtain ⟨c, h⟩ | h := execSkp_answers x s
    · exact ⟨_, h, s.wf_skipIf c⟩
    · exact ⟨_, h, id⟩
  | sknp x =>
    obtain ⟨c, h⟩ | h := execSknp_answers x s
    · exact ⟨_, h, s.wf_skipIf c⟩
    · exact ⟨_, h, id⟩
  | seVxNn | sneVxNn | seVxVy | sneVxVy => exact ⟨_, rfl, s.wf_skipIf _⟩
  | ldBVx =>
    exact ⟨_, rfl, fun hm =>
      State.wf_writeByte _ _ _ (State.wf_writeByte _ _ _ (State.wf_writeByte _ _ _ hm))⟩
  | ldMiVx => exact ⟨_, rfl, s.wf_storeRegs _⟩
  | ldVxMi => exact ⟨_, rfl, fun hm => by rw [s.loadRegs_eq]; exact hm⟩
  | _ => exact ⟨_, rfl, id⟩

theorem exec_answers (i : Instr) (s : State) : ∃ t, exec i s = .next t :=
  (exec_answers_wf i s).imp fun _ h => h.1

theorem wf_exec {i : Instr} {s t : State} (h : exec i s = .next t) (hm : Memory.wf s.font s.mem = true) :
    Memory.wf t.font t.mem = true := by
  obtain ⟨u, hu, hwf⟩ := exec_answers_wf i s
  cases hu.symm.trans h
  exact hwf hm

/-! ## The STEP, one equation per way it goes -/

theorem State.halted_eq_false_iff (s : State) : s.halted = false ↔ s.running := by
  simp [State.halted, State.running]

theorem State.fetchable_iff (s : State) : s.fetchable = true ↔ s.pc.toNat ≤ 0x0FFE := by
  simp [State.fetchable]

/-- A halted core does not move (rule R167). -/
theorem stepEvent_of_halted {s : State} (h : s.halted = true) : stepEvent s = .next s := by
  rw [stepEvent, if_pos h]

/-- A fetch beyond 0xFFE (rule R162). -/
theorem stepEvent_of_not_fetchable {s : State} (h : s.halted = false) (hf : s.fetchable = false) :
    stepEvent s = .next (s.closeWindow.raise .fetchOutOfRange 0) := by
  simp [stepEvent, fetchAndExecute, h, hf]

/-- An illegal word (rule R161). -/
theorem stepEvent_of_illegal {s : State} {e : DecodeReject} (h : s.halted = false) (hf : s.fetchable = true)
    (hd : decodeWord s.fetchWord = .error e) :
    stepEvent s = .next (s.closeWindow.advance.raise .illegalOpcode s.fetchWord) := by
  simp [stepEvent, fetchAndExecute, executeWord, h, hf, hd]

/-- A legal word is executed with `pc` advanced and the window closed (rules R13, R80). -/
theorem stepEvent_of_decode {s : State} {i : Instr} (h : s.halted = false) (hf : s.fetchable = true)
    (hd : decodeWord s.fetchWord = .ok i) : stepEvent s = exec i s.closeWindow.advance := by
  simp [stepEvent, fetchAndExecute, executeWord, h, hf, hd]

/-- Every STEP answers a next state. -/
theorem stepEvent_answers (s : State) : ∃ t, stepEvent s = .next t := by
  cases hh : s.halted with
  | true => exact ⟨_, stepEvent_of_halted hh⟩
  | false =>
    cases hf : s.fetchable with
    | false => exact ⟨_, stepEvent_of_not_fetchable hh hf⟩
    | true =>
      cases hd : decodeWord s.fetchWord with
      | error e => exact ⟨_, stepEvent_of_illegal hh hf hd⟩
      | ok i => exact stepEvent_of_decode hh hf hd ▸ exec_answers i _

/-- Every event answers a next state. -/
theorem handle_answers (e : Event) (s : State) : ∃ t, handle e s = .next t := by
  cases e with
  | step => exact stepEvent_answers s
  | _ => exact ⟨_, rfl⟩

/-- The bytes at `pc` decode as the fetched word does (rules R44, R45). -/
theorem State.decodeWord_fetchWord {s : State} {i : Instr} {rest : List Byte}
    (h : decode [s.readByte (BitVec.ofNat 12 s.pc.toNat), s.readByte (BitVec.ofNat 12 (s.pc.toNat + 1))] =
      .ok (i, rest)) : decodeWord s.fetchWord = .ok i := by
  rw [Laws.decode_bytes, ← State.fetchWord] at h
  split at h
  · next j hj => cases h; exact hj
  · cases h

/-- Settles O6: the fourth way a STEP goes. -/
theorem stepRunsTheDecodedInstruction : Obligations.StepRunsTheDecodedInstruction := by
  intro s u i hnext hrun hpc hdecode
  rw [step_of_nextEvent hnext]
  exact stepEvent_of_decode (u.halted_eq_false_iff.mpr hrun) (u.fetchable_iff.mpr hpc)
    (State.decodeWord_fetchWord hdecode)

end Sys2Proof.Machine
end

section
/-! SUPPORT. The machine's invariant (`State.Inv`): an untouched core has it, and every event keeps it, a STEP by
way of the state its instruction begins to execute in. -/

namespace Sys2Proof.Machine

variable {s t : State}

/-! ## From reset, and the events that execute nothing -/

/-- The core as RESET leaves it has the invariant, whatever the keys (rules R29, R190). -/
theorem State.untouched.inv (h : s.untouched) : s.Inv := by
  have hmem : s.mem = [] := congrArg State.mem h
  have hpc : s.pc = 0x0200 := congrArg State.pc h
  have hstack : s.stack = Vector.replicate 16 0 := congrArg State.stack h
  have hfault : s.fault = ⟨.none, 0⟩ := congrArg State.fault h
  exact {
    memory := by rw [hmem]; rfl
    pcBound := by rw [hpc]; decide
    stackBound := fun k => by simp [hstack]
    latch := by simp [State.latchOk, hfault]
    window := fun _ => h }

/-- Settles O27: the reset state is untouched. -/
theorem resetHasTheInvariant : Obligations.ResetHasTheInvariant :=
  fun _ => State.untouched.inv rfl

theorem State.Inv.resetEvent (s : State) : s.resetEvent.Inv := State.untouched.inv rfl

theorem State.Inv.withEnvironment (hs : s.Inv) (v : Environment) : { s with environment := v }.Inv where
  memory := hs.memory
  pcBound := hs.pcBound
  stackBound := hs.stackBound
  latch := hs.latch
  window hw := (congrArg (fun u : State => { u with environment := v }) (hs.window hw) :)

/-- The timers of an untouched core are 0 and stay 0 (rule R175). -/
theorem State.Inv.tickEvent (hs : s.Inv) : s.tickEvent.Inv where
  memory := hs.memory
  pcBound := hs.pcBound
  stackBound := hs.stackBound
  latch := hs.latch
  window hw := congrArg State.tickEvent (hs.window hw)

theorem State.Inv.keysEvent (hs : s.Inv) (k : BitVec 16) : (s.keysEvent k).Inv where
  memory := hs.memory
  pcBound := hs.pcBound
  stackBound := hs.stackBound
  latch := hs.latch
  window hw := congrArg (State.setKeys · k) (hs.window hw)

/-- With the window closed, memory in canonical form may hold anything. -/
theorem State.Inv.withMem (hs : s.Inv) (m : List Host.Cell) (hm : Memory.wf s.font m = true) :
    { s with mem := m }.closeWindow.Inv where
  memory := hm
  pcBound := hs.pcBound
  stackBound := hs.stackBound
  latch := hs.latch
  window := nofun

theorem State.Inv.loadEvent (hs : s.Inv) (image : List Byte) : (s.loadEvent image).Inv := by
  unfold State.loadEvent
  split
  · have hm := s.wf_storeImage 0x200 image hs.memory
    rw [s.storeImage_eq] at hm ⊢
    exact hs.withMem _ hm
  · exact hs

/-! ## Raising a fault -/

/-- Fault entry keeps the invariant when what it latches is true of the core (rule R166). -/
theorem State.Inv.raise (hs : s.Inv) (hw : s.loadWindow = false) {c : FaultCode} {op : Word}
    (hl : (s.raise c op).latchOk) : (s.raise c op).Inv where
  memory := hs.memory
  pcBound := hs.pcBound
  stackBound := hs.stackBound
  latch := hl
  window h := absurd (hw.symm.trans h) nofun

theorem State.Inv.closeWindow (hs : s.Inv) : s.closeWindow.Inv := hs.withMem s.mem hs.memory

/-! ## The execute phase -/

/-- What holds where an instruction begins to execute: the invariant of a running core, and `pc` is one the fetch
has advanced (rules R13, R45). -/
structure State.Executing (s : State) : Prop where
  memory : Memory.wf s.font s.mem = true
  pcLow : 2 ≤ s.pc.toNat
  pcHigh : s.pc.toNat ≤ 0x1000
  stackBound : ∀ k : Fin 16, s.stack[k].toNat ≤ 0x1000
  noFault : s.fault = ⟨.none, 0⟩
  windowClosed : s.loadWindow = false

/-- A running core has an empty latch. -/
theorem State.Inv.fault_eq (hs : s.Inv) (hh : s.halted = false) : s.fault = ⟨.none, 0⟩ := by
  have hcode : s.fault.code = .none := s.halted_eq_false_iff.mp hh
  have hop : s.fault.opcode = 0 := by simpa [State.latchOk, hcode] using hs.latch
  rw [← hcode, ← hop]

/-- The advance of a `pc` in this range does not wrap (rules R13, R45). -/
theorem toNat_add_two {w : Word} (h : w.toNat ≤ 0x1000) : (w + 2).toNat = w.toNat + 2 := by
  bv_omega

theorem State.Inv.executing (hs : s.Inv) (hh : s.halted = false) (hf : s.fetchable = true) :
    s.closeWindow.advance.Executing := by
  have hpc := s.fetchable_iff.mp hf
  have hadd : s.closeWindow.advance.pc.toNat = s.pc.toNat + 2 := toNat_add_two (hpc.trans (by decide))
  exact {
    memory := hs.memory
    pcLow := by omega
    pcHigh := by omega
    stackBound := hs.stackBound
    noFault := hs.fault_eq hh
    windowClosed := rfl }

theorem State.latchOk_of_noFault (h : s.fault = ⟨.none, 0⟩) : s.latchOk := by
  simp [State.latchOk, h]

theorem State.Executing.inv (hs : s.Executing) : s.Inv where
  memory := hs.memory
  pcBound := hs.pcHigh.trans (by decide)
  stackBound := hs.stackBound
  latch := State.latchOk_of_noFault hs.noFault
  window h := absurd (hs.windowClosed.symm.trans h) nofun

/-! ### The bound on `pc` (rule R13) -/

theorem State.toNat_pc_skipIf_le (s : State) (c : Bool) (h : s.pc.toNat ≤ 0x1000) :
    (s.skipIf c).pc.toNat ≤ 0x1002 := by
  rw [State.skipIf_eq, State.setPc_pc]
  split
  · rw [toNat_add_two h]
    omega
  · omega

theorem State.toNat_pc_rewind_le (s : State) (hlo : 2 ≤ s.pc.toNat) : s.rewind.pc.toNat ≤ s.pc.toNat := by
  rw [State.rewind_pc]
  bv_omega

/-- A skip adds 2, a jump and a call go below 0x1000, a return to what was pushed, and Fx0A back by 2; the others
leave `pc` as the fetch advanced it (rule R7). -/
theorem State.Executing.toNat_pc_le (hs : s.Executing) {i : Instr} (h : exec i s = .next t) :
    t.pc.toNat ≤ 0x1002 := by
  have hpc : s.pc.toNat ≤ 0x1002 := hs.inv.pcBound
  have htarget (nnn : Addr) : (zextAddr nnn).toNat ≤ 0x1002 := by
    rw [toNat_zextAddr]
    omega
  cases i with
  | jp nnn => cases h; exact htarget nnn
  | seVxNn | sneVxNn | seVxVy | sneVxVy => cases h; exact s.toNat_pc_skipIf_le _ hs.pcHigh
  | ret =>
    obtain ⟨k, -, ht⟩ | ht := execRet_answers s <;> cases ht.symm.trans h
    · exact (hs.stackBound k).trans (by decide)
    · exact hpc
  | call nnn =>
    obtain ⟨hsp, ht⟩ | ht := execCall_answers nnn s <;> cases ht.symm.trans h
    · exact htarget nnn
    · exact hpc
  | skp x =>
    obtain ⟨c, ht⟩ | ht := execSkp_answers x s <;> cases ht.symm.trans h
    · exact s.toNat_pc_skipIf_le c hs.pcHigh
    · exact hpc
  | sknp x =>
    obtain ⟨c, ht⟩ | ht := execSknp_answers x s <;> cases ht.symm.trans h
    · exact s.toNat_pc_skipIf_le c hs.pcHigh
    · exact hpc
  | ldVxK x =>
    obtain ⟨b, ht⟩ | ht := execLdVxK_answers x s <;> cases ht.symm.trans h
    · exact hpc
    · exact (s.toNat_pc_rewind_le hs.pcLow).trans hpc
  | _ =>
    have hframe := (instructionsChangeOnlyWhatTheyAssign _ s t h).1 .pc (by simp [writes, allPixels, dataBytes])
    exact hframe.trans_le hpc

/-! ### The bound on the return addresses (rule R14) -/

/-- Only a call writes the stack, and it pushes the advanced `pc` (rules R7, R85). -/
theorem State.Executing.toNat_stack_le (hs : s.Executing) {i : Instr} (h : exec i s = .next t) (k : Fin 16) :
    t.stack[k].toNat ≤ 0x1000 := by
  cases i with
  | call nnn =>
    obtain ⟨hsp, ht⟩ | ht := execCall_answers nnn s <;> cases ht.symm.trans h
    · simp only [State.setPc_stack, Fin.getElem_fin, Vector.getElem_set]
      split
      · exact hs.pcHigh
      · exact hs.stackBound k
    · exact hs.stackBound k
  | _ =>
    have hframe := (instructionsChangeOnlyWhatTheyAssign _ s t h).1 (.stack k)
      (by simp [writes, allPixels, dataBytes, theLatch])
    exact hframe.trans_le (hs.stackBound k)

/-! ### The latch (rules R160 to R165) -/

/-- An instruction leaves the latch empty, or raises the fault of its row under the row's condition. -/
theorem State.Executing.latchOk_exec (hs : s.Executing) {i : Instr} (h : exec i s = .next t) : t.latchOk := by
  rcases exec_fault i s t h with hsame | ⟨nnn, rfl, hsp, rfl⟩ | ⟨rfl, hsp, rfl⟩ | ⟨x, hi, hx, rfl⟩
  · exact State.latchOk_of_noFault (hsame.trans hs.noFault)
  · exact ⟨hsp, nnn, rfl⟩
  · exact ⟨hsp, rfl⟩
  · exact ⟨x, hx, hi.imp (congrArg encode) (congrArg encode)⟩

/-! ## Every event -/

theorem State.Executing.inv_exec (hs : s.Executing) {i : Instr} (h : exec i s = .next t) : t.Inv where
  memory := wf_exec h hs.memory
  pcBound := hs.toNat_pc_le h
  stackBound := hs.toNat_stack_le h
  latch := hs.latchOk_exec h
  window hw := by
    obtain ⟨-, -, hwindow, -⟩ := instructionsChangeOnlyWhatTheyAssign i s t h
    rw [hwindow, hs.windowClosed] at hw
    cases hw

theorem State.Inv.stepEvent (hs : s.Inv) (h : stepEvent s = .next t) : t.Inv := by
  rcases stepEvent_cases h with ⟨-, rfl⟩ | ⟨-, hf, rfl⟩ | ⟨hh, hf, ⟨e, he⟩, rfl⟩ | ⟨hh, hf, i, -, hexec⟩
  · exact hs
  · have hpc : 0x0FFE < s.pc.toNat := by simpa [State.fetchable] using hf
    exact hs.closeWindow.raise rfl ⟨hpc, rfl⟩
  · obtain ⟨c, rfl⟩ := Laws.decodeWord_error he
    exact (hs.executing hh hf).inv.raise rfl ⟨c, he⟩
  · exact (hs.executing hh hf).inv_exec hexec

theorem State.Inv.handle (hs : s.Inv) {e : Event} (h : handle e s = .next t) : t.Inv := by
  rcases handle_cases h with ⟨-, rfl⟩ | ⟨image, -, rfl⟩ | ⟨-, hstep⟩ | ⟨-, rfl⟩ | ⟨k, -, rfl⟩ | ⟨-, rfl⟩
  · exact State.Inv.resetEvent s
  · exact hs.loadEvent image
  · exact hs.stepEvent hstep
  · exact hs.tickEvent
  · exact hs.keysEvent k
  · exact hs

/-- Settles O26: choosing the next event changes the environment alone, and each of the six events keeps the
invariant. -/
theorem everyStepKeepsTheInvariant : Obligations.EveryStepKeepsTheInvariant :=
  fun s _ hs h => (hs.withEnvironment s.nextEvent.2.environment).handle h

end Sys2Proof.Machine
end

section
/-! SUPPORT. What no event changes (the machine's parameters), what RESET, LOAD and OBSERVE do piece by piece, and
who writes the flag register (rules R5, R11, R25 to R29). -/

namespace Sys2Proof.Machine

/-! ## The parameters of the machine (rule R5; log entries 1 to 3) -/

/-- FONT and the host's plan are the same, and at most one random byte was drawn. -/
def SameParameters (s t : State) : Prop :=
  t.font = s.font ∧ t.environment = s.environment ∧ (t.draws = s.draws ∨ t.draws = s.draws + 1)

theorem SameParameters.refl (s : State) : SameParameters s s := ⟨rfl, rfl, .inl rfl⟩

/-- Only Cxnn draws a random byte, and it draws one (rules R7, R105). -/
theorem exec_sameParameters {i : Instr} {s t : State} (h : exec i s = .next t) : SameParameters s t := by
  obtain ⟨hpieces, hfont, -, henv⟩ := instructionsChangeOnlyWhatTheyAssign i s t h
  refine ⟨hfont, henv, ?_⟩
  cases i with
  | rnd x nn => cases h; exact .inr rfl
  | _ => exact .inl (hpieces .draws (by simp [writes, allPixels, dataBytes, theLatch]))

theorem stepEvent_sameParameters {s t : State} (h : stepEvent s = .next t) : SameParameters s t := by
  rcases stepEvent_cases h with ⟨-, rfl⟩ | ⟨-, -, rfl⟩ | ⟨-, -, -, rfl⟩ | ⟨-, -, i, -, hexec⟩
  · exact .refl t
  · exact .refl s
  · exact .refl s
  · exact (exec_sameParameters hexec : SameParameters s.closeWindow.advance t)

theorem State.loadEvent_sameParameters (s : State) (image : List Byte) : SameParameters s (s.loadEvent image) := by
  unfold State.loadEvent
  split
  · rw [s.storeImage_eq]
    exact .refl s
  · exact .refl s

theorem handle_sameParameters {e : Event} {s t : State} (h : handle e s = .next t) : SameParameters s t := by
  rcases handle_cases h with ⟨-, rfl⟩ | ⟨image, -, rfl⟩ | ⟨-, hstep⟩ | ⟨-, rfl⟩ | ⟨k, -, rfl⟩ | ⟨-, rfl⟩
  · exact .refl s
  · exact s.loadEvent_sameParameters image
  · exact stepEvent_sameParameters hstep
  · exact .refl s
  · exact .refl s
  · exact .refl t

/-- Settles O10: every event answers and keeps the parameters; the order of events is that of the host's plan. -/
theorem everyEventHasANextState : Obligations.EveryEventHasANextState := by
  refine ⟨fun s u e hnext => ?_, ?_⟩
  · obtain ⟨t, ht⟩ := handle_answers e u
    exact ⟨t, (step_of_nextEvent hnext).trans ht, handle_sameParameters ht⟩
  · rintro s _ rfl
    refine ⟨?_, State.nextEvent_free⟩
    rintro e rest (hhead | ⟨hempty, hcycle⟩)
    · exact State.nextEvent_cons hhead
    · exact State.nextEvent_repeats hempty hcycle

/-! ## RESET and LOAD (rules R29, R192) -/

/-- Memory at RESET: the font below 0x050, zero above (rule R29). -/
theorem State.readByte_resetWith (font : Font) (a : Addr) :
    (State.resetWith font).readByte a = Memory.unlisted font a.toNat := rfl

theorem State.reg_resetWith (font : Font) (r : Reg) : (State.resetWith font).reg r = 0 :=
  Vector.getElem_replicate _

theorem State.pixel_resetWith (font : Font) (p : Nat) : (State.resetWith font).pixel p = false := by
  simp [State.pixel, State.resetWith, Display.lit]

/-- Just after RESET an image that fits is accepted (rules R192, R193). -/
theorem State.loadEvent_resetWith (font : Font) {image : List Byte} (h : image.length ≤ 3584) :
    (State.resetWith font).loadEvent image = ((State.resetWith font).storeImage 0x200 image).closeWindow :=
  if_pos (by simp [State.acceptsLoad, State.resetWith, State.halted, h])

/-- Settles O17: field by field, and LOAD by what storing an image does to memory. -/
theorem resetStateHoldsTheTableOfValues : Obligations.ResetStateHoldsTheTableOfValues := by
  intro font
  refine ⟨rfl, rfl, fun a h => (State.readByte_resetWith font a).trans (dif_pos h),
    fun a h => (State.readByte_resetWith font a).trans (dif_neg (Nat.not_lt.mpr h)),
    State.reg_resetWith font, rfl, fun k => Vector.getElem_replicate _, rfl, rfl,
    fun p _ => State.pixel_resetWith font p, rfl, rfl, rfl, fun image hlen => ?_⟩
  obtain ⟨hinside, houtside⟩ := (State.resetWith font).storeImage_spec 0x200 image (by omega)
  rw [State.loadEvent_resetWith font hlen]
  refine ⟨hinside, fun a ha => houtside a fun i hi hai => ?_⟩
  have haddr : a.toNat = 0x200 + i := by
    rw [hai, BitVec.toNat_ofNat]
    omega
  omega

/-! ## OBSERVE (rules R28, R54, R178) -/

/-- Every piece OBSERVE shows is the piece the core holds; `draws` is no piece of the core. -/
theorem State.observe_get (s : State) (p : Piece) (hp : p ≠ .draws) : s.observe.get p = some (s.get p) := by
  cases p with
  | draws => exact absurd rfl hp
  | byte a => exact congrArg (fun b : Byte => some b.toNat) (s.observe_mem a)
  | _ => rfl

/-- Settles O25: the event answers the state itself. -/
theorem observeShowsEveryPieceAndChangesNothing : Obligations.ObserveShowsEveryPieceAndChangesNothing :=
  fun _ u hnext => ⟨step_of_nextEvent hnext, u.observe_get⟩

/-! ## The flag register (rule R11) -/

/-- A register is written by an instruction that names it, and VF by the six that write it as a flag (rules R7,
R11). -/
theorem v_mem_writes (s : State) (i : Instr) (r : Reg) :
    .v r ∈ writes s i ↔ namesDestination r i = true ∨ (writesFlag i = true ∧ r = vf) := by
  cases i <;> simp [writes, namesDestination, writesFlag, allPixels, dataBytes, theLatch, vf, eq_comm (a := r)]

theorem toNat_flagByte_le (f : Bool) : (flagByte f).toNat ≤ 1 := by
  cases f <;> decide

theorem State.toNat_vf_setResultThenFlag_le (s : State) (x : Reg) (res : Byte) (f : Bool) :
    ((s.setResultThenFlag x res f).reg vf).toNat ≤ 1 := by
  rw [State.reg_setResultThenFlag, if_pos rfl]
  exact toNat_flagByte_le f

/-- The six write a flag to VF last (rules R110, R131). -/
theorem exec_toNat_vf_le {i : Instr} {s t : State} (h : exec i s = .next t) (hi : writesFlag i = true) :
    (t.reg vf).toNat ≤ 1 := by
  cases i with
  | addVxVy | sub | shr | subn | shl => cases h; exact s.toNat_vf_setResultThenFlag_le _ _ _
  | drw x y n =>
    cases h
    rw [State.reg_setReg_self]
    exact toNat_flagByte_le _
  | _ => cases hi

/-- Settles O29: the six by what they write last, the others by their frame. -/
theorem flagRegisterIsWrittenByItsSixInstructions : Obligations.FlagRegisterIsWrittenByItsSixInstructions := by
  refine fun i s t h => ⟨exec_toNat_vf_le h, fun hflag hdest => BitVec.eq_of_toNat_eq ?_⟩
  obtain ⟨hpieces, -⟩ := instructionsChangeOnlyWhatTheyAssign i s t h
  refine hpieces (.v vf) fun hmem => ?_
  rcases (v_mem_writes s i vf).mp hmem with hnamed | ⟨hsix, -⟩
  · exact Bool.false_ne_true (hdest.symm.trans hnamed)
  · exact Bool.false_ne_true (hflag.symm.trans hsix)

end Sys2Proof.Machine
end

section
/-! SUPPORT. Even code (rule R48, decision D13): what each assignment to `pc` does to its parity, instruction by
instruction and event by event. -/

namespace Sys2Proof.Machine

variable {s t : State}

/-! ## The operations that move `pc` -/

/-- A new `pc` leaves the return addresses as they are. -/
theorem State.pcEven.setPc (hs : s.pcEven) {w : Word} (hw : w.toNat % 2 = 0) : (s.setPc w).pcEven :=
  ⟨hw, hs.2⟩

/-- An advance keeps the parity of `pc`, also where it wraps at 65536 (rule R45). -/
theorem State.pcEven.advance (hs : s.pcEven) : s.advance.pcEven := by
  have hpc : s.pc.toNat % 2 = 0 := hs.1
  exact hs.setPc (by bv_omega)

/-- Fx0A with no key pressed (rule R142). -/
theorem State.pcEven.rewind (hs : s.pcEven) : s.rewind.pcEven := by
  have hpc : s.pc.toNat % 2 = 0 := hs.1
  exact hs.setPc (by bv_omega)

theorem State.pcEven.skipIf (hs : s.pcEven) (c : Bool) : (s.skipIf c).pcEven := by
  cases c with
  | false => exact hs
  | true => exact hs.advance

/-- What writes neither `pc`, nor SP, nor a stack slot keeps even code even (rule R7). -/
theorem State.pcEven.of_onlyChanges {w : Set Piece} (hs : s.pcEven) (h : OnlyChanges s t w) (hpc : .pc ∉ w)
    (hsp : .sp ∉ w) (hstack : ∀ k, .stack k ∉ w) : t.pcEven := by
  obtain ⟨heven, hreturns⟩ := hs
  obtain ⟨hpieces, -⟩ := h
  have hspEq : t.sp.val = s.sp.val := hpieces .sp hsp
  refine ⟨(congrArg (· % 2) (hpieces .pc hpc)).trans heven, fun k hk => ?_⟩
  exact (congrArg (· % 2) (hpieces (.stack k) (hstack k))).trans (hreturns k (hspEq ▸ hk))

/-! ## Call and return (rules R85, R86) -/

/-- `Push` of an even `pc`: every return address, the new one included, is even. -/
theorem State.pcEven.push (hs : s.pcEven) (h : s.sp.val < 16) :
    State.pcEven { s with stack := s.stack.set s.sp.val s.pc h, sp := ⟨s.sp.val + 1, Nat.succ_lt_succ h⟩ } := by
  obtain ⟨hpc, hreturns⟩ := hs
  refine ⟨hpc, fun k hk => ?_⟩
  simp only [Fin.getElem_fin, Vector.getElem_set]
  split
  · exact hpc
  · next hne => exact hreturns k (by simp only at hk; omega)

/-- `Pop`: the address popped is one of the return addresses, and those that stay are the ones below it. -/
theorem State.pcEven.pop (hs : s.pcEven) {k : Fin 16} (hk : k.val + 1 = s.sp.val) :
    (State.setPc { s with sp := k.castSucc } s.stack[k]).pcEven := by
  obtain ⟨-, hreturns⟩ := hs
  refine ⟨hreturns k (by omega), fun j hj => hreturns j ?_⟩
  have hjk : j.val < k.val := hj
  omega

/-! ## Every instruction and every event -/

/-- The execute phase: only a jump and a call take `pc` from the program, and their target is even. -/
theorem State.pcEven.exec (hs : s.pcEven) {i : Instr}
    (htarget : ∀ nnn, i = .jp nnn ∨ i = .call nnn → nnn.toNat % 2 = 0) (h : exec i s = .next t) : t.pcEven := by
  cases i with
  | jp nnn => cases h; exact hs.setPc (by simpa using htarget nnn (.inl rfl))
  | call nnn =>
    obtain ⟨hsp, ht⟩ | ht := execCall_answers nnn s <;> cases ht.symm.trans h
    · exact (hs.push hsp).setPc (by simpa using htarget nnn (.inr rfl))
    · exact hs
  | ret =>
    obtain ⟨k, hk, ht⟩ | ht := execRet_answers s <;> cases ht.symm.trans h
    · exact hs.pop hk
    · exact hs
  | seVxNn | sneVxNn | seVxVy | sneVxVy => cases h; exact hs.skipIf _
  | skp x =>
    obtain ⟨c, ht⟩ | ht := execSkp_answers x s <;> cases ht.symm.trans h
    · exact hs.skipIf c
    · exact hs
  | sknp x =>
    obtain ⟨c, ht⟩ | ht := execSknp_answers x s <;> cases ht.symm.trans h
    · exact hs.skipIf c
    · exact hs
  | ldVxK x =>
    obtain ⟨b, ht⟩ | ht := execLdVxK_answers x s <;> cases ht.symm.trans h
    · exact hs
    · exact hs.rewind
  | _ =>
    refine hs.of_onlyChanges (instructionsChangeOnlyWhatTheyAssign _ s t h) ?_ ?_ ?_ <;>
      simp [writes, allPixels, dataBytes]

/-- The fetched word is no jump or call to an odd target (rule R48). -/
def State.fetchesNoOddTarget (s : State) : Prop :=
  ∀ nnn, (decodeWord s.fetchWord = .ok (.jp nnn) ∨ decodeWord s.fetchWord = .ok (.call nnn)) → nnn.toNat % 2 = 0

/-- A STEP: the fetch advances `pc` by 2, and a fault leaves it there or does not move it (rules R45, R161,
R162). -/
theorem State.pcEven.stepEvent (hs : s.pcEven) (htarget : s.fetchesNoOddTarget)
    (h : stepEvent s = .next t) : t.pcEven := by
  rcases stepEvent_cases h with ⟨-, rfl⟩ | ⟨-, -, rfl⟩ | ⟨-, -, -, rfl⟩ | ⟨-, -, i, hi, hexec⟩
  · exact hs
  · exact hs
  · exact hs.advance
  · have hfetched : s.closeWindow.advance.pcEven := hs.advance
    refine hfetched.exec ?_ hexec
    rintro nnn (rfl | rfl)
    · exact htarget nnn (.inl hi)
    · exact htarget nnn (.inr hi)

/-- RESET starts at 0x200 with an empty stack (rules R29, R190). -/
theorem State.pcEven_resetEvent (s : State) : s.resetEvent.pcEven :=
  ⟨(by decide : (0x0200 : Word).toNat % 2 = 0), fun _ hk => absurd hk (Nat.not_lt_zero _)⟩

/-- LOAD writes memory only (rule R192). -/
theorem State.pcEven.loadEvent (hs : s.pcEven) (image : List Byte) : (s.loadEvent image).pcEven := by
  unfold State.loadEvent
  split
  · rw [s.storeImage_eq]
    exact hs
  · exact hs

theorem State.pcEven.handle (hs : s.pcEven) (htarget : s.fetchesNoOddTarget) {e : Event}
    (h : handle e s = .next t) : t.pcEven := by
  rcases handle_cases h with ⟨-, rfl⟩ | ⟨image, -, rfl⟩ | ⟨-, hstep⟩ | ⟨-, rfl⟩ | ⟨k, -, rfl⟩ | ⟨-, rfl⟩
  · exact s.pcEven_resetEvent
  · exact hs.loadEvent image
  · exact hs.stepEvent htarget hstep
  · exact hs
  · exact hs
  · exact hs

/-- Settles O37: choosing the next event changes neither `pc`, nor the stack, nor the fetched word, and each of the
six events keeps even code even. -/
theorem evenTargetsKeepThePcEven : Obligations.EvenTargetsKeepThePcEven := by
  intro s t hs htarget hstep
  have hwaiting : s.nextEvent.2.pcEven := hs
  exact hwaiting.handle htarget hstep

end Sys2Proof.Machine
end

section
/-! SUPPORT. The fetched word and the bytes it is read from (rules R44, R45, R47, R53). -/

namespace Sys2Proof.Machine

/-- Two bytes as one number, the first one the high byte (rule R44). -/
theorem toNat_wordOfBytes (hi lo : Byte) : (wordOfBytes hi lo).toNat = 256 * hi.toNat + lo.toNat := by
  rw [wordOfBytes, BitVec.toNat_append, ← Nat.shiftLeft_add_eq_or_of_lt lo.isLt, Nat.shiftLeft_eq]
  omega

/-- Settles O7: the opcode is those two bytes put together. -/
theorem fetchIsBigEndian : Obligations.FetchIsBigEndian :=
  fun _ _ => toNat_wordOfBytes _ _

/-- The two bytes of a word that can be fetched have two addresses. -/
theorem State.pc_address_ne_next (s : State) :
    BitVec.ofNat 12 s.pc.toNat ≠ BitVec.ofNat 12 (s.pc.toNat + 1) := by
  intro h
  have hmod := congrArg BitVec.toNat h
  simp only [BitVec.toNat_ofNat] at hmod
  omega

/-- Settles O8: the fetch reads memory as it is, and the second byte stored is not the first one's place. -/
theorem storeIsSeenByTheNextFetch : Obligations.StoreIsSeenByTheNextFetch := by
  intro s hi lo _
  rw [State.fetchWord, State.writeByte_pc, State.writeByte_pc]
  simp only [State.readByte_writeByte, s.pc_address_ne_next, if_true, if_false]
  rfl

/-- Settles O9: a read after the write, and the frame of the write. -/
theorem writeByteChangesThatByteAlone : Obligations.WriteByteChangesThatByteAlone :=
  fun s a b => ⟨(s.readByte_writeByte a a b).trans (if_pos rfl), s.onlyChanges_writeByte a b⟩

end Sys2Proof.Machine
end

section
/-! PROOFS. The encoding (rules R60 to R68): decoding inverts encoding, encoding inverts decoding, the decoder
follows the opcode map, and the words it refuses are the seven classes. -/

namespace Sys2Proof.Laws

open Sys2Proof

/-! ## Decoding an encoded instruction -/

/-- Settles O1, by cases on the instruction, one group per format of rule R62 and family of rule R65: each field
of the packed word is the operand it was packed from. -/
theorem decodeOfEncodeIsTheInstruction : Obligations.DecodeOfEncodeIsTheInstruction := by
  intro i
  cases i with
  | cls | ret => rfl
  | jp | call | ldINnn => simp [encode, decodeWord]
  | seVxNn | sneVxNn | ldVxNn | addVxNn | rnd => simp [encode, decodeWord]
  | seVxVy | sneVxVy | drw => simp [encode, decodeWord]
  | ldVxVy | or | and | xor | addVxVy | sub | shr | subn | shl => simp [encode, decodeWord, decodeFamily8]
  | skp | sknp => simp [encode, decodeWord, decodeFamilyE]
  | ldVxDt | ldVxK | ldDtVx | ldStVx | addIVx | ldFVx | ldBVx | ldMiVx | ldVxMi =>
    simp [encode, decodeWord, decodeFamilyF]

/-- Settles O5: each word is the encoding of the instruction it is to decode to. -/
theorem specWordsDecode : Obligations.SpecWordsDecode :=
  ⟨decodeOfEncodeIsTheInstruction (.jp 0xA2B), decodeOfEncodeIsTheInstruction (.ldVxNn 0xA 0x2C),
    decodeOfEncodeIsTheInstruction (.subn 0xA 0xB), decodeOfEncodeIsTheInstruction (.drw 0x7 0xA 0x5),
    decodeOfEncodeIsTheInstruction (.skp 0x1), decodeOfEncodeIsTheInstruction (.ldBVx 0x5),
    decodeOfEncodeIsTheInstruction .ret, decodeOfEncodeIsTheInstruction (.rnd 0x3 0x0F), rfl⟩

/-! ## What the decoder can answer -/

/-- The major opcode of the words of a class (rule R66). -/
def majorOfClass : IllegalWord → Nibble
  | .family0 => 0x0#4
  | .family5 => 0x5#4
  | .family8 => 0x8#4
  | .family9 => 0x9#4
  | .familyB => 0xB#4
  | .familyE => 0xE#4
  | .familyF => 0xF#4

/-- An answer the decoder may give to the word `w`: an instruction that is encoded as `w`, or the class of illegal
words with the major opcode of `w`. -/
def AnswersWord (w : Word) : Except DecodeReject Instr → Prop
  | .ok i => encode i = w
  | .error e => ∃ c, e = .illegal c ∧ opN1 w = majorOfClass c

theorem answersWord_illegal {w : Word} {c : IllegalWord} (h : opN1 w = majorOfClass c) :
    AnswersWord w (.error (.illegal c)) := ⟨c, rfl, h⟩

theorem packA_fields_of {w : Word} {n1 : Nibble} (h : opN1 w = n1) : packA n1 (opNNN w) = w :=
  h ▸ packA_fields w

theorem packI_fields_of {w : Word} {n1 : Nibble} (h : opN1 w = n1) : packI n1 (opX w) (opNN w) = w :=
  h ▸ packI_fields w

theorem packR_fields_of {w : Word} {n1 : Nibble} (h : opN1 w = n1) :
    packR n1 (opX w) (opY w) (opN w) = w :=
  h ▸ packR_fields w

theorem decodeFamily0_answers {w : Word} (h : opN1 w = 0x0#4) : AnswersWord w (decodeFamily0 w) := by
  unfold decodeFamily0
  split_ifs with h1 h2
  · exact h1.symm
  · exact h2.symm
  · exact answersWord_illegal h

theorem decodeFamily8_answers (x y : Reg) (n : Nibble) :
    AnswersWord (packR 0x8#4 x y n) (decodeFamily8 x y n) := by
  unfold decodeFamily8
  split_ifs
  case neg => exact answersWord_illegal (opN1_packR ..)
  all_goals subst n; rfl

theorem decodeFamilyE_answers (x : Reg) (nn : Byte) :
    AnswersWord (packI 0xE#4 x nn) (decodeFamilyE x nn) := by
  unfold decodeFamilyE
  split_ifs
  case neg => exact answersWord_illegal (opN1_packI ..)
  all_goals subst nn; rfl

theorem decodeFamilyF_answers (x : Reg) (nn : Byte) :
    AnswersWord (packI 0xF#4 x nn) (decodeFamilyF x nn) := by
  unfold decodeFamilyF
  split_ifs
  case neg => exact answersWord_illegal (opN1_packI ..)
  all_goals subst nn; rfl

/-- Rule R65 by major opcode: an instruction has the fields of the word, a refusal is of the word's family. -/
theorem decodeWord_answers (w : Word) : AnswersWord w (decodeWord w) := by
  rcases nibble_cases (opN1 w) with hn | hn | hn | hn | hn | hn | hn | hn | hn | hn | hn | hn | hn | hn |
    hn | hn
  · exact decodeWord_n1_0 hn ▸ decodeFamily0_answers hn
  · exact decodeWord_n1_1 hn ▸ packA_fields_of hn
  · exact decodeWord_n1_2 hn ▸ packA_fields_of hn
  · exact decodeWord_n1_3 hn ▸ packI_fields_of hn
  · exact decodeWord_n1_4 hn ▸ packI_fields_of hn
  · rw [decodeWord_n1_5 hn]
    split_ifs with h0
    · rw [AnswersWord, encode, ← h0, packR_fields_of hn]
    · exact answersWord_illegal hn
  · exact decodeWord_n1_6 hn ▸ packI_fields_of hn
  · exact decodeWord_n1_7 hn ▸ packI_fields_of hn
  · simpa only [decodeWord_n1_8 hn, packR_fields_of hn] using decodeFamily8_answers (opX w) (opY w) (opN w)
  · rw [decodeWord_n1_9 hn]
    split_ifs with h0
    · rw [AnswersWord, encode, ← h0, packR_fields_of hn]
    · exact answersWord_illegal hn
  · exact decodeWord_n1_A hn ▸ packA_fields_of hn
  · exact decodeWord_n1_B hn ▸ answersWord_illegal hn
  · exact decodeWord_n1_C hn ▸ packI_fields_of hn
  · exact decodeWord_n1_D hn ▸ packR_fields_of hn
  · simpa only [decodeWord_n1_E hn, packI_fields_of hn] using decodeFamilyE_answers (opX w) (opNN w)
  · simpa only [decodeWord_n1_F hn, packI_fields_of hn] using decodeFamilyF_answers (opX w) (opNN w)

/-- Settles O2: the answer `.ok i` is an instruction encoded as the word. -/
theorem encodeOfDecodeIsTheWord : Obligations.EncodeOfDecodeIsTheWord := by
  intro w i h
  have hans := decodeWord_answers w
  rwa [h] at hans

/-! ## The opcode map -/

/-- Each instruction stands for a row of the opcode map and is encoded in that row. -/
theorem encodedInRow : ∀ i : Instr, EncodedInRow.Statement i
  | .cls => EncodedInRow.cls
  | .ret => EncodedInRow.ret
  | .jp nnn => EncodedInRow.jp nnn
  | .call nnn => EncodedInRow.call nnn
  | .seVxNn x nn => EncodedInRow.seVxNn x nn
  | .sneVxNn x nn => EncodedInRow.sneVxNn x nn
  | .seVxVy x y => EncodedInRow.seVxVy x y
  | .ldVxNn x nn => EncodedInRow.ldVxNn x nn
  | .addVxNn x nn => EncodedInRow.addVxNn x nn
  | .ldVxVy x y => EncodedInRow.ldVxVy x y
  | .or x y => EncodedInRow.or x y
  | .and x y => EncodedInRow.and x y
  | .xor x y => EncodedInRow.xor x y
  | .addVxVy x y => EncodedInRow.addVxVy x y
  | .sub x y => EncodedInRow.sub x y
  | .shr x y => EncodedInRow.shr x y
  | .subn x y => EncodedInRow.subn x y
  | .shl x y => EncodedInRow.shl x y
  | .sneVxVy x y => EncodedInRow.sneVxVy x y
  | .ldINnn nnn => EncodedInRow.ldINnn nnn
  | .rnd x nn => EncodedInRow.rnd x nn
  | .drw x y n => EncodedInRow.drw x y n
  | .skp x => EncodedInRow.skp x
  | .sknp x => EncodedInRow.sknp x
  | .ldVxDt x => EncodedInRow.ldVxDt x
  | .ldVxK x => EncodedInRow.ldVxK x
  | .ldDtVx x => EncodedInRow.ldDtVx x
  | .ldStVx x => EncodedInRow.ldStVx x
  | .addIVx x => EncodedInRow.addIVx x
  | .ldFVx x => EncodedInRow.ldFVx x
  | .ldBVx x => EncodedInRow.ldBVx x
  | .ldMiVx x => EncodedInRow.ldMiVx x
  | .ldVxMi x => EncodedInRow.ldVxMi x

theorem row_mem_opcodeMap (i : Instr) : i.row ∈ opcodeMap := List.contains_iff_mem.mp (encodedInRow i).1

theorem row_matches_encode (i : Instr) : i.row.matches (encode i) := (encodedInRow i).2

/-- Two words of one row have the same bits where the row's mask is all ones. -/
theorem extract_eq_of_matches {r : MapRow} {v w : Word} {start len : Nat}
    (hmask : r.mask.extractLsb' start len = BitVec.allOnes len) (hv : r.matches v) (hw : r.matches w) :
    v.extractLsb' start len = w.extractLsb' start len :=
  calc v.extractLsb' start len
    _ = (v &&& r.mask).extractLsb' start len := by rw [BitVec.extractLsb'_and, hmask, BitVec.and_allOnes]
    _ = (w &&& r.mask).extractLsb' start len := by rw [beq_iff_eq.mp hv, beq_iff_eq.mp hw]
    _ = w.extractLsb' start len := by rw [BitVec.extractLsb'_and, hmask, BitVec.and_allOnes]

/-- The mask of every row keeps the major opcode. -/
theorem mask_keeps_major : ∀ r ∈ opcodeMap, r.mask.extractLsb' 12 4 = BitVec.allOnes 4 := by decide

/-- A word of an instruction's row decodes to an instruction of that row: by the row's mask the word and the
encoding agree in the fields by which the decoder tells instructions apart. -/
theorem decodeWord_of_row_matches {i : Instr} {w : Word} (h : i.row.matches w) :
    ∃ j, decodeWord w = .ok j ∧ j.row = i.row := by
  have hi := row_matches_encode i
  have hn1 : opN1 w = opN1 (encode i) :=
    extract_eq_of_matches (mask_keeps_major _ (row_mem_opcodeMap i)) h hi
  cases i with
  | cls | ret =>
    have hw : w.extractLsb' 0 16 = _ := extract_eq_of_matches (r := ⟨0xFFFF, _⟩) (by decide) h hi
    rw [BitVec.extractLsb'_eq_self, BitVec.extractLsb'_eq_self] at hw
    exact ⟨_, hw ▸ decodeOfEncodeIsTheInstruction _, rfl⟩
  | jp | call | ldINnn | seVxNn | sneVxNn | ldVxNn | addVxNn | rnd | drw =>
    simp [decodeWord, hn1, encode, Instr.row]
  | seVxVy | sneVxVy =>
    have hn : opN w = opN (encode _) := extract_eq_of_matches (r := ⟨0xF00F, _⟩) (by decide) h hi
    simp [decodeWord, hn1, hn, encode, Instr.row]
  | ldVxVy | or | and | xor | addVxVy | sub | shr | subn | shl =>
    have hn : opN w = opN (encode _) := extract_eq_of_matches (r := ⟨0xF00F, _⟩) (by decide) h hi
    simp [decodeWord, decodeFamily8, hn1, hn, encode, Instr.row]
  | skp | sknp =>
    have hnn : opNN w = opNN (encode _) := extract_eq_of_matches (r := ⟨0xF0FF, _⟩) (by decide) h hi
    simp [decodeWord, decodeFamilyE, hn1, hnn, encode, Instr.row]
  | ldVxDt | ldVxK | ldDtVx | ldStVx | addIVx | ldFVx | ldBVx | ldMiVx | ldVxMi =>
    have hnn : opNN w = opNN (encode _) := extract_eq_of_matches (r := ⟨0xF0FF, _⟩) (by decide) h hi
    simp [decodeWord, decodeFamilyF, hn1, hnn, encode, Instr.row]

/-- The pattern of a row, as a word, decodes to an instruction of that row. -/
theorem row_of_decodeWord_pat : ∀ r ∈ opcodeMap, (decodeWord r.pat).map Instr.row = .ok r := by
  decide

/-- Every row of the map is the row of an instruction. -/
theorem exists_row_eq {r : MapRow} (hr : r ∈ opcodeMap) : ∃ i : Instr, i.row = r := by
  have hpat := row_of_decodeWord_pat r hr
  cases hd : decodeWord r.pat with
  | ok i => exact ⟨i, Except.ok.inj (hd ▸ hpat)⟩
  | error e => rw [hd] at hpat; cases hpat

/-- A word that a row of the map matches decodes to an instruction of that row. -/
theorem decodeWord_of_mem_matches {r : MapRow} {w : Word} (hr : r ∈ opcodeMap) (h : r.matches w) :
    ∃ i, decodeWord w = .ok i ∧ i.row = r := by
  obtain ⟨i, rfl⟩ := exists_row_eq hr
  exact decodeWord_of_row_matches h

/-- Settles O3: a row that matches a word is the row of what the word decodes to, so there is at most one; and an
instruction decoded from a word is encoded as that word, in its own row. -/
theorem decodeFollowsTheOpcodeMap : Obligations.DecodeFollowsTheOpcodeMap := by
  refine ⟨rfl, fun w => ⟨?_, ?_, ?_⟩⟩
  · intro r hr q hq hrw hqw
    obtain ⟨i, hi, rfl⟩ := decodeWord_of_mem_matches hr hrw
    obtain ⟨j, hj, rfl⟩ := decodeWord_of_mem_matches hq hqw
    cases hi.symm.trans hj
    rfl
  · rintro ⟨r, hr, hrw⟩
    obtain ⟨i, hi, -⟩ := decodeWord_of_mem_matches hr hrw
    exact ⟨i, hi⟩
  · intro i hi
    have hmatch := row_matches_encode i
    rw [encodeOfDecodeIsTheWord w i hi] at hmatch
    exact ⟨row_mem_opcodeMap i, hmatch⟩

/-! ## The illegal words -/

/-- A word refused in class `c` has the major opcode of that class. -/
theorem opN1_of_illegal {w : Word} {c : IllegalWord} (h : decodeWord w = .error (.illegal c)) :
    opN1 w = majorOfClass c := by
  have hans := decodeWord_answers w
  rw [h] at hans
  obtain ⟨_, hc, hn1⟩ := hans
  cases hc
  exact hn1

/-- The words of class `c` are those of its major opcode that meet a condition `P`, where `P` says which words of
that major opcode are refused. -/
theorem illegal_iff {w : Word} {c : IllegalWord} {P : Prop}
    (h : opN1 w = majorOfClass c → (decodeWord w = .error (.illegal c) ↔ P)) :
    decodeWord w = .error (.illegal c) ↔ w.toNat / 4096 = (majorOfClass c).toNat ∧ P := by
  rw [← toNat_opN1, BitVec.toNat_inj, ← and_congr_right h, and_iff_right_of_imp opN1_of_illegal]

/-- A step of a family's chain of tests refuses exactly when its test fails and the rest of the chain refuses. -/
theorem ite_ok_eq_error_iff {p : Prop} [Decidable p] {i : Instr} {a : Except DecodeReject Instr}
    {e : DecodeReject} : (if p then .ok i else a) = .error e ↔ ¬p ∧ a = .error e := by
  split_ifs with hp <;> simp [hp]

theorem illegal_family0_iff (w : Word) : decodeWord w = .error (.illegal .family0) ↔
    w.toNat / 4096 = 0 ∧ w.toNat ≠ 0x00E0 ∧ w.toNat ≠ 0x00EE :=
  illegal_iff fun hn => by
    simp [decodeWord_n1_0 hn, decodeFamily0, ite_ok_eq_error_iff, ← BitVec.toNat_inj]

theorem illegal_family5_iff (w : Word) : decodeWord w = .error (.illegal .family5) ↔
    w.toNat / 4096 = 5 ∧ w.toNat % 16 ≠ 0 :=
  illegal_iff fun hn => by
    simp [decodeWord_n1_5 hn, ← BitVec.toNat_inj, toNat_opN]

theorem illegal_family8_iff (w : Word) : decodeWord w = .error (.illegal .family8) ↔
    w.toNat / 4096 = 8 ∧ w.toNat % 16 ∈ [8, 9, 0xA, 0xB, 0xC, 0xD, 0xF] :=
  illegal_iff fun hn => by
    simp only [decodeWord_n1_8 hn, decodeFamily8, ite_ok_eq_error_iff, ite_eq_right_iff, reduceCtorEq, imp_false,
      ← BitVec.toNat_inj, toNat_opN, BitVec.toNat_ofNat, List.mem_cons, List.not_mem_nil, or_false]
    omega

theorem illegal_family9_iff (w : Word) : decodeWord w = .error (.illegal .family9) ↔
    w.toNat / 4096 = 9 ∧ w.toNat % 16 ≠ 0 :=
  illegal_iff fun hn => by
    simp [decodeWord_n1_9 hn, ← BitVec.toNat_inj, toNat_opN]

theorem illegal_familyB_iff (w : Word) : decodeWord w = .error (.illegal .familyB) ↔ w.toNat / 4096 = 0xB :=
  (illegal_iff fun hn => iff_true_intro (decodeWord_n1_B hn)).trans (iff_of_eq (and_true _))

theorem illegal_familyE_iff (w : Word) : decodeWord w = .error (.illegal .familyE) ↔
    w.toNat / 4096 = 0xE ∧ w.toNat % 256 ∉ [0x9E, 0xA1] :=
  illegal_iff fun hn => by
    simp [decodeWord_n1_E hn, decodeFamilyE, ite_ok_eq_error_iff, ← BitVec.toNat_inj, toNat_opNN]

theorem illegal_familyF_iff (w : Word) : decodeWord w = .error (.illegal .familyF) ↔
    w.toNat / 4096 = 0xF ∧ w.toNat % 256 ∉ [0x07, 0x0A, 0x15, 0x18, 0x1E, 0x29, 0x33, 0x55, 0x65] :=
  illegal_iff fun hn => by
    simp [decodeWord_n1_F hn, decodeFamilyF, ite_ok_eq_error_iff, ← BitVec.toNat_inj, toNat_opNN]

/-- Settles O4: class by class, and a refusal is always of a class. -/
theorem illegalWordsAreTheSevenClasses : Obligations.IllegalWordsAreTheSevenClasses := by
  intro w
  refine ⟨illegal_family0_iff w, illegal_family5_iff w, illegal_family8_iff w, illegal_family9_iff w,
    illegal_familyB_iff w, illegal_familyE_iff w, illegal_familyF_iff w, fun h => ?_⟩
  obtain ⟨_, hc⟩ := decodeWord_error h
  cases hc

end Sys2Proof.Laws
end

section
/-! PROOFS. Control flow (`40_control_flow.md`, rules R80 to R90): jump, call, return and the skips on registers, and
that of all instructions only Cxnn reads the random byte. -/

namespace Sys2Proof.Machine

/-! ## Call and return, one equation per way they go (rules R85, R86) -/

section
variable {s : State}

theorem exec_call_of_lt (nnn : Addr) (h : s.sp.val < 16) :
    exec (.call nnn) s = .next (State.setPc
      { s with stack := s.stack.set s.sp.val s.pc h, sp := ⟨s.sp.val + 1, Nat.succ_lt_succ h⟩ } (zextAddr nnn)) := by
  rw [exec, execCall, s.push_of_lt s.pc h]

theorem exec_call_of_full (nnn : Addr) (h : s.sp.val = 16) :
    exec (.call nnn) s = .next (s.raise .stackOverflow (encode (.call nnn))) := by
  rw [exec, execCall, s.push_of_full s.pc h]

theorem exec_ret_of_pos {k : Fin 16} (h : k.val + 1 = s.sp.val) :
    exec .ret s = .next (State.setPc { s with sp := k.castSucc } s.stack[k]) := by
  rw [exec, execRet, s.pop_of_pos k h]

theorem exec_ret_of_empty (h : s.sp.val = 0) :
    exec .ret s = .next (s.raise .stackUnderflow (encode .ret)) := by
  rw [exec, execRet, s.pop_of_empty h]

/-- A stack that is not empty has a topmost slot in use (rules R14, R15). -/
theorem State.exists_top_slot (h : s.sp.val ≠ 0) : ∃ k : Fin 16, k.val + 1 = s.sp.val :=
  ⟨⟨s.sp.val - 1, by omega⟩, Nat.succ_pred h⟩

end

/-- The fields of format A as a number (rule R62). -/
theorem toNat_packA (n1 : Nibble) (nnn : Addr) : (packA n1 nnn).toNat = 4096 * n1.toNat + nnn.toNat := by
  rw [packA, BitVec.toNat_append, ← Nat.shiftLeft_add_eq_or_of_lt nnn.isLt, Nat.shiftLeft_eq]
  omega

/-- Settles O32: the frame of a call is that of its push and of the new `pc`; on a full stack it is fault entry. -/
theorem callPushesThePcOrOverflows : Obligations.CallPushesThePcOrOverflows := by
  refine ⟨fun s nnn k hk => ?_, fun s nnn hsp => ?_⟩
  · have hsp : s.sp.val < 16 := by omega
    refine ⟨_, exec_call_of_lt nnn hsp, ?_, rfl, toNat_zextAddr nnn, ?_⟩
    · simp [← hk]
    · have hpush := s.onlyChanges_push s.pc k hk _ (s.push_of_lt s.pc hsp)
      refine (hpush.then (State.onlyChanges_setPc _ (zextAddr nnn))).mono ?_
      exact Set.union_subset (Set.subset_insert _ _) (Set.singleton_subset_iff.mpr (Set.mem_insert _ _))
  · exact ⟨_, exec_call_of_full nnn hsp, rfl, toNat_packA 0x2#4 nnn, s.onlyChanges_raise _ _⟩

/-- Settles O33: the frame of a return is that of its pop and of the new `pc`; on an empty stack it is fault
entry. -/
theorem retPopsThePcOrUnderflows : Obligations.RetPopsThePcOrUnderflows := by
  refine ⟨fun s k hk => ⟨_, exec_ret_of_pos hk, rfl, rfl, ?_⟩,
    fun s hsp => ⟨_, exec_ret_of_empty hsp, rfl, rfl, s.onlyChanges_raise _ _⟩⟩
  have hpop := s.onlyChanges_pop _ _ (s.pop_of_pos k hk)
  exact (hpop.then (State.onlyChanges_setPc _ s.stack[k])).mono (Set.pair_comm _ _).subset

/-- Settles O34: the return pops the slot the call pushed. -/
theorem callThenRetComesBack : Obligations.CallThenRetComesBack := by
  intro s t u nnn hsp hcall husp hustack
  obtain ⟨t', ht', hpushed, htsp, -⟩ := callPushesThePcOrOverflows.1 s nnn ⟨s.sp.val, hsp⟩ rfl
  obtain rfl : t' = t := Host.Outcome.next.inj (ht'.symm.trans hcall)
  have htop : s.sp.val + 1 = u.sp.val := by rw [husp, htsp]
  obtain ⟨w, hret, hwsp, hwpc, -⟩ := retPopsThePcOrUnderflows.1 u ⟨s.sp.val, hsp⟩ htop
  exact ⟨w, hret, by rw [hwpc, hustack, hpushed], Fin.ext hwsp⟩

/-! ## Jump and skips (rules R82, R87 to R90) -/

/-- Settles O31: a jump assigns `pc` and nothing else. -/
theorem jumpSetsThePc : Obligations.JumpSetsThePc :=
  fun s nnn => ⟨_, rfl, toNat_zextAddr nnn, s.onlyChanges_setPc _⟩

/-- `pc` as a number after a skip, whatever proposition its condition decides (rule R81). -/
theorem State.toNat_pc_skipIf (s : State) {c : Bool} {P : Prop} [Decidable P] (h : c = true ↔ P) :
    (s.skipIf c).pc.toNat = (if P then s.pc.toNat + 2 else s.pc.toNat) % 65536 := by
  rw [State.skipIf_eq, State.setPc_pc]
  simp only [h]
  split
  · exact BitVec.toNat_add _ _
  · exact (Nat.mod_eq_of_lt s.pc.isLt).symm

/-- Two bytes compare equal as they do as unsigned numbers (rules R87, R89). -/
theorem byte_beq_iff_toNat_eq (a b : Byte) : (a == b) = true ↔ a.toNat = b.toNat :=
  beq_iff_eq.trans BitVec.toNat_inj.symm

/-- Two bytes compare different as they do as unsigned numbers (rules R88, R90). -/
theorem byte_bne_iff_toNat_ne (a b : Byte) : (a != b) = true ↔ a.toNat ≠ b.toNat :=
  bne_iff_ne.trans BitVec.toNat_inj.not.symm

/-- Settles O35: each is a skip on its comparison. -/
theorem registerSkipsAdvanceThePc : Obligations.RegisterSkipsAdvanceThePc :=
  ⟨fun s x nn => ⟨_, rfl, s.toNat_pc_skipIf (byte_beq_iff_toNat_eq (s.reg x) nn), s.onlyChanges_skipIf _⟩,
    fun s x nn => ⟨_, rfl, s.toNat_pc_skipIf (byte_bne_iff_toNat_ne (s.reg x) nn), s.onlyChanges_skipIf _⟩,
    fun s x y => ⟨_, rfl, s.toNat_pc_skipIf (byte_beq_iff_toNat_eq (s.reg x) (s.reg y)), s.onlyChanges_skipIf _⟩,
    fun s x y => ⟨_, rfl, s.toNat_pc_skipIf (byte_bne_iff_toNat_ne (s.reg x) (s.reg y)), s.onlyChanges_skipIf _⟩⟩

/-! ## The instructions that look at the keys, one equation per way they go (rules R140 to R142) -/

section
variable {s : State} {x : Reg}

theorem exec_skp_of_index {k : Nat} (h : keyIndex (s.reg x) = some k) :
    exec (.skp x) s = .next (s.skipIf (s.keyDown k)) := by
  rw [exec, execSkp, h]

theorem exec_skp_of_no_index (h : keyIndex (s.reg x) = none) :
    exec (.skp x) s = .next (s.raise .keyIndexOutOfRange (encode (.skp x))) := by
  rw [exec, execSkp, h]

theorem exec_sknp_of_index {k : Nat} (h : keyIndex (s.reg x) = some k) :
    exec (.sknp x) s = .next (s.skipIf (!s.keyDown k)) := by
  rw [exec, execSknp, h]

theorem exec_sknp_of_no_index (h : keyIndex (s.reg x) = none) :
    exec (.sknp x) s = .next (s.raise .keyIndexOutOfRange (encode (.sknp x))) := by
  rw [exec, execSknp, h]

theorem exec_ldVxK_of_key {k : Nat} (h : s.firstKey = some k) :
    exec (.ldVxK x) s = .next (s.setReg x (BitVec.ofNat 8 k)) := by
  rw [exec, execLdVxK, h]

theorem exec_ldVxK_of_no_key (h : s.firstKey = none) : exec (.ldVxK x) s = .next s.rewind := by
  rw [exec, execLdVxK, h]

end

/-! ## The random byte (rules R80, R179)

`State.withDraws` changes which random byte comes next. It commutes with every operation but the draw itself. -/

/-- The state in which another random byte comes next (log entry 2). -/
def State.withDraws (s : State) (d : Nat) : State := { s with draws := d }

section
variable (s : State) (d : Nat)

theorem State.skipIf_withDraws (c : Bool) : (s.withDraws d).skipIf c = (s.skipIf c).withDraws d := by
  cases c <;> rfl

theorem State.drawRows_withDraws (ox oy k : Nat) : (s.withDraws d).drawRows ox oy k = s.drawRows ox oy k := by
  induction k with
  | zero => rfl
  | succ k ih => rw [State.drawRows, State.drawRows, ih]; rfl

theorem State.storeRegs_withDraws (k : Nat) : (s.withDraws d).storeRegs k = (s.storeRegs k).withDraws d := by
  induction k with
  | zero => rfl
  | succ k ih => rw [State.storeRegs, State.storeRegs, ih]; rfl

theorem State.loadRegs_withDraws (k : Nat) : (s.withDraws d).loadRegs k = (s.loadRegs k).withDraws d := by
  induction k with
  | zero => rfl
  | succ k ih => rw [State.loadRegs, State.loadRegs, ih]; rfl

/-- Any instruction but Cxnn does the same whichever random byte comes next: it takes the same way on, and the way
on does not read the byte. -/
theorem exec_withDraws {i : Instr} (hi : ∀ x nn, i ≠ .rnd x nn) :
    ∃ t, exec i s = .next t ∧ exec i (s.withDraws d) = .next (t.withDraws d) := by
  have hskip (c : Bool) : (.next ((s.withDraws d).skipIf c) : Result) = .next ((s.skipIf c).withDraws d) :=
    congrArg _ (s.skipIf_withDraws d c)
  cases i with
  | rnd x nn => exact absurd rfl (hi x nn)
  | ret =>
    by_cases hsp : s.sp.val = 0
    · exact ⟨_, exec_ret_of_empty hsp, exec_ret_of_empty (s := s.withDraws d) hsp⟩
    · obtain ⟨k, hk⟩ := State.exists_top_slot hsp
      exact ⟨_, exec_ret_of_pos hk, exec_ret_of_pos (s := s.withDraws d) hk⟩
  | call nnn =>
    by_cases hsp : s.sp.val < 16
    · exact ⟨_, exec_call_of_lt nnn hsp, exec_call_of_lt (s := s.withDraws d) nnn hsp⟩
    · have hfull : s.sp.val = 16 := by omega
      exact ⟨_, exec_call_of_full nnn hfull, exec_call_of_full (s := s.withDraws d) nnn hfull⟩
  | skp x =>
    cases hk : keyIndex (s.reg x) with
    | some k => exact ⟨_, exec_skp_of_index hk, (exec_skp_of_index (s := s.withDraws d) hk).trans (hskip _)⟩
    | none => exact ⟨_, exec_skp_of_no_index hk, exec_skp_of_no_index (s := s.withDraws d) hk⟩
  | sknp x =>
    cases hk : keyIndex (s.reg x) with
    | some k => exact ⟨_, exec_sknp_of_index hk, (exec_sknp_of_index (s := s.withDraws d) hk).trans (hskip _)⟩
    | none => exact ⟨_, exec_sknp_of_no_index hk, exec_sknp_of_no_index (s := s.withDraws d) hk⟩
  | ldVxK x =>
    cases hk : s.firstKey with
    | some k => exact ⟨_, exec_ldVxK_of_key hk, exec_ldVxK_of_key (s := s.withDraws d) hk⟩
    | none => exact ⟨_, exec_ldVxK_of_no_key hk, exec_ldVxK_of_no_key (s := s.withDraws d) hk⟩
  | seVxNn | sneVxNn | seVxVy | sneVxVy => exact ⟨_, rfl, hskip _⟩
  | drw x y n =>
    refine ⟨_, rfl, ?_⟩
    rw [exec, execDrw, State.drawRows_withDraws]
    rfl
  | ldMiVx x => exact ⟨_, rfl, congrArg _ (s.storeRegs_withDraws d (x.toNat + 1))⟩
  | ldVxMi x => exact ⟨_, rfl, congrArg _ (s.loadRegs_withDraws d (x.toNat + 1))⟩
  | _ => exact ⟨_, rfl, rfl⟩

end

/-- Settles O30: the state answered with another byte next is the state answered, with that byte next. -/
theorem randomByteIsReadOnlyByRnd : Obligations.RandomByteIsReadOnlyByRnd := by
  intro i s t d hi h
  obtain ⟨u, hu, hother⟩ := exec_withDraws s d hi
  obtain rfl : u = t := Host.Outcome.next.inj (hu.symm.trans h)
  exact hother

end Sys2Proof.Machine
end

section
/-! PROOFS. Immediate loads, the index register and the random byte (`41_load_and_index.md`, rules R100 to R105).
Each assigns one register, so its frame is that of the assignment; what is left is the value as a number. -/

namespace Sys2Proof.Machine

/-! ## The registers (rules R100, R101) -/

/-- Settles O38: the register written is the one read back. -/
theorem loadImmediateSetsVx : Obligations.LoadImmediateSetsVx :=
  fun s x nn => ⟨_, rfl, s.reg_setReg_self x nn, s.onlyChanges_setReg x nn⟩

/-- Settles O39: addition of bytes is addition modulo 256. -/
theorem addImmediateWraps : Obligations.AddImmediateWraps := by
  refine fun s x nn => ⟨_, rfl, ?_, s.onlyChanges_setReg x (s.reg x + nn)⟩
  rw [State.reg_setReg_self]
  exact BitVec.toNat_add (s.reg x) nn

/-! ## The index register (rules R102 to R104) -/

/-- Settles O40: zero-extension keeps the number. -/
theorem loadIndexSetsI : Obligations.LoadIndexSetsI :=
  fun s nnn => ⟨_, rfl, toNat_zextAddr nnn, s.onlyChanges_setIndex _⟩

/-- Settles O41: addition of words is addition modulo 65536, and the zero-extended byte is the same number. -/
theorem addToIndexWraps : Obligations.AddToIndexWraps := by
  refine fun s x => ⟨_, rfl, ?_, s.onlyChanges_setIndex _⟩
  rw [State.setIndex_index, BitVec.toNat_add, toNat_zextByte]

/-- Settles O42: five times a byte fits in a word. -/
theorem loadGlyphAddress : Obligations.LoadGlyphAddress :=
  fun s x => ⟨_, rfl, toNat_glyphAddress (s.reg x), s.onlyChanges_setIndex _⟩

/-! ## The random byte (rules R105, R179) -/

/-- A bit that is 0 in the mask is 0 in the masked byte. -/
theorem getLsbD_and_of_mask_false (b : Byte) {mask : Byte} {i : Nat} (h : mask.getLsbD i = false) :
    (b &&& mask).getLsbD i = false := by
  rw [BitVec.getLsbD_and, h, Bool.and_false]

/-- Settles O43: the register holds the masked byte when the draw moves on, and the draw leaves it alone. -/
theorem randomIsMasked : Obligations.RandomIsMasked := by
  intro s x nn
  have hreg : ((s.setReg x (s.rnd &&& nn)).nextDraw).reg x = s.rnd &&& nn := by
    rw [State.nextDraw_reg, State.reg_setReg_self]
  refine ⟨_, rfl, hreg, fun b hb => ?_, rfl, ?_⟩
  · rw [hreg]
    exact getLsbD_and_of_mask_false s.rnd hb
  · exact (s.onlyChanges_setReg x _).then (State.onlyChanges_nextDraw _)

end Sys2Proof.Machine
end

section
/-! PROOFS. The register-register family 8xy_ (`42_alu.md`, rules R110 to R119). Copy and bitwise write `V[x]` alone;
the other five write the result and then the flag, so what is left of each is one fact about its result and one about
its flag, as numbers. -/

namespace Sys2Proof.Machine

/-! ## Copy and bitwise (rules R111 to R114) -/

/-- Settles O44: each writes one byte to `V[x]`, and a bitwise operation on bytes is the operation on each bit. -/
theorem copyAndBitwiseSetVx : Obligations.CopyAndBitwiseSetVx := by
  intro s x y
  refine ⟨⟨_, rfl, s.reg_setReg_self x _, s.onlyChanges_setReg x _⟩,
    ⟨_, rfl, fun b _ => ?_, s.onlyChanges_setReg x _⟩, ⟨_, rfl, fun b _ => ?_, s.onlyChanges_setReg x _⟩,
    ⟨_, rfl, fun b _ => ?_, s.onlyChanges_setReg x _⟩⟩
  · rw [State.reg_setReg_self, BitVec.getLsbD_or]
  · rw [State.reg_setReg_self, BitVec.getLsbD_and]
  · rw [State.reg_setReg_self, BitVec.getLsbD_xor]

/-! ## The flags as numbers (rules R115 to R119) -/

theorem toNat_flagByte_carryOut (a b : Byte) :
    (flagByte (carryOut a b)).toNat = if a.toNat + b.toNat > 255 then 1 else 0 := by
  simp only [toNat_flagByte, carryOut, decide_eq_true_eq]

theorem toNat_flagByte_noBorrow (a b : Byte) :
    (flagByte (noBorrow a b)).toNat = if a.toNat ≥ b.toNat then 1 else 0 := by
  simp only [toNat_flagByte, noBorrow, decide_eq_true_eq]

theorem toNat_flagByte_shiftedOutRight (a : Byte) : (flagByte (shiftedOutRight a)).toNat = a.toNat % 2 := by
  rw [toNat_flagByte, shiftedOutRight_eq]
  simp only [decide_eq_true_eq]
  split <;> omega

theorem toNat_flagByte_shiftedOutLeft (a : Byte) : (flagByte (shiftedOutLeft a)).toNat = a.toNat / 128 := by
  have hlt := a.isLt
  rw [toNat_flagByte, shiftedOutLeft_eq]
  simp only [decide_eq_true_eq]
  split <;> omega

/-! ## The result, then the flag (rule R110) -/

/-- The flag is written last: it stands in VF whatever x is. -/
theorem State.vf_setResultThenFlag (s : State) (x : Reg) (res : Byte) (flag : Bool) :
    (s.setResultThenFlag x res flag).reg vf = flagByte flag := by
  rw [State.reg_setResultThenFlag, if_pos rfl]

theorem State.reg_setResultThenFlag_of_ne_vf (s : State) {x : Reg} (hx : x ≠ vf) (res : Byte) (flag : Bool) :
    (s.setResultThenFlag x res flag).reg x = res := by
  rw [State.reg_setResultThenFlag, if_neg hx, if_pos rfl]

/-- The effect the five instructions share: what holds of the result holds of `V[x]` unless x = 0xF, VF is the flag
as a number, and nothing else changes. -/
theorem State.next_setResultThenFlag (s : State) (x : Reg) {res : Byte} {flag : Bool} {P : Byte → Prop} {f : Nat}
    (hres : P res) (hflag : (flagByte flag).toNat = f) :
    ∃ t, (.next (s.setResultThenFlag x res flag) : Result) = .next t ∧ (x ≠ 0xF#4 → P (t.reg x)) ∧
      (t.reg 0xF#4).toNat = f ∧ OnlyChanges s t {.v x, .v 0xF#4} :=
  ⟨_, rfl, fun hx => (s.reg_setResultThenFlag_of_ne_vf hx res flag).symm ▸ hres,
    (congrArg BitVec.toNat (s.vf_setResultThenFlag x res flag)).trans hflag,
    s.onlyChanges_setResultThenFlag x res flag⟩

/-! ## Add and subtract (rules R115, R116, R118) -/

/-- Settles O45: addition of bytes is addition modulo 256. -/
theorem addSetsTheCarry : Obligations.AddSetsTheCarry := fun s x y =>
  s.next_setResultThenFlag x (P := fun r => r.toNat = ((s.reg x).toNat + (s.reg y).toNat) % 256)
    (BitVec.toNat_add (s.reg x) (s.reg y)) (toNat_flagByte_carryOut (s.reg x) (s.reg y))

/-- A difference of bytes is the difference of their numbers modulo 256, taken in the integers. -/
theorem toNat_byte_sub (a b : Byte) : ((a - b).toNat : Int) = ((a.toNat : Int) - b.toNat) % 256 := by
  have hlt := b.isLt
  rw [BitVec.toNat_sub]
  omega

/-- Settles O46: subtraction of bytes is subtraction modulo 256. -/
theorem subSetsNoBorrow : Obligations.SubSetsNoBorrow := fun s x y =>
  s.next_setResultThenFlag x (P := fun r => (r.toNat : Int) = (((s.reg x).toNat : Int) - (s.reg y).toNat) % 256)
    (toNat_byte_sub (s.reg x) (s.reg y)) (toNat_flagByte_noBorrow (s.reg x) (s.reg y))

/-- Settles O47: as 8xy5, with the operands the other way round. -/
theorem subnSetsNoBorrow : Obligations.SubnSetsNoBorrow := fun s x y =>
  s.next_setResultThenFlag x (P := fun r => (r.toNat : Int) = (((s.reg y).toNat : Int) - (s.reg x).toNat) % 256)
    (toNat_byte_sub (s.reg y) (s.reg x)) (toNat_flagByte_noBorrow (s.reg y) (s.reg x))

/-! ## Shifts (rules R117, R119) -/

theorem toNat_byte_shiftRight_one (a : Byte) : (a >>> 1).toNat = a.toNat / 2 := by
  rw [BitVec.toNat_ushiftRight, Nat.shiftRight_one]

theorem toNat_byte_shiftLeft_one (a : Byte) : (a <<< 1).toNat = a.toNat * 2 % 256 := by
  rw [BitVec.toNat_shiftLeft, Nat.shiftLeft_eq]

/-- Settles O48: a shift right by one halves the byte, and what it shifts out is the remainder. -/
theorem shiftRightSetsTheBitShiftedOut : Obligations.ShiftRightSetsTheBitShiftedOut := fun s x _ =>
  s.next_setResultThenFlag x (P := fun r => r.toNat = (s.reg x).toNat / 2)
    (toNat_byte_shiftRight_one (s.reg x)) (toNat_flagByte_shiftedOutRight (s.reg x))

/-- Settles O49: a shift left by one doubles the byte modulo 256, and what it shifts out is the bit of weight 128. -/
theorem shiftLeftSetsTheBitShiftedOut : Obligations.ShiftLeftSetsTheBitShiftedOut := fun s x _ =>
  s.next_setResultThenFlag x (P := fun r => r.toNat = (s.reg x).toNat * 2 % 256)
    (toNat_byte_shiftLeft_one (s.reg x)) (toNat_flagByte_shiftedOutLeft (s.reg x))

end Sys2Proof.Machine
end

section
/-! PROOFS. The display instructions (`43_display.md`, rules R130 to R132). Drawing a sprite is given its three rules
once: the pixels after it, the flag, and the frame. The last section draws it twice. -/

namespace Sys2Proof.Machine

/-! ## Clearing (rule R130) -/

theorem State.pixel_setDisplay_zero (s : State) (p : Nat) :
    (s.setDisplay (Vector.replicate 32 0)).pixel p = false := by
  simp [State.pixel, Display.lit]

/-- Settles O50: the display is replaced, and every row of the new one is 0. -/
theorem clsClearsTheDisplay : Obligations.ClsClearsTheDisplay :=
  fun s => ⟨_, rfl, fun p _ => s.pixel_setDisplay_zero p, s.onlyChanges_setDisplay _⟩

/-! ## Drawing (rule R131) -/

theorem flagByte_eq_one_iff (f : Bool) : flagByte f = 1 ↔ f = true := by cases f <;> decide

theorem flagByte_eq_zero_iff (f : Bool) : flagByte f = 0 ↔ f = false := by cases f <;> decide

/-- A pixel of the grid, by its column and row or by its number (rule R18). -/
theorem exists_pixel_iff (P : Nat → Nat → Prop) :
    (∃ col row, col ≤ 63 ∧ row ≤ 31 ∧ P col row) ↔ ∃ p < 2048, P (p % 64) (p / 64) := by
  constructor
  · rintro ⟨col, row, hcol, hrow, h⟩
    have hmod : (col + row * 64) % 64 = col := by omega
    have hdiv : (col + row * 64) / 64 = row := by omega
    exact ⟨col + row * 64, by omega, by rwa [hmod, hdiv]⟩
  · rintro ⟨p, hp, h⟩
    exact ⟨p % 64, p / 64, by omega, by omega, h⟩

/-- The state after the sprite of `n` rows at `I` is drawn with its origin at `(ox, oy)`. -/
def State.drawSprite (s : State) (ox oy n : Nat) : State :=
  (s.setDisplay (s.drawRows ox oy n).display).setReg vf (flagByte (s.drawRows ox oy n).collided)

theorem exec_drw (s : State) (x y : Reg) (n : Nibble) :
    exec (.drw x y n) s = .next (s.drawSprite ((s.reg x).toNat % 64) ((s.reg y).toNat % 32) n.toNat) := rfl

section
variable (s : State) (ox oy n : Nat)

theorem State.pixel_drawSprite {p : Nat} (hp : p < 2048) :
    (s.drawSprite ox oy n).pixel p = (s.pixel p ^^ spriteCovers s ox oy n (p % 64) (p / 64)) :=
  s.lit_drawRows ox oy n (p % 64) (p / 64) (by omega) (by omega)

theorem State.vf_drawSprite : (s.drawSprite ox oy n).reg vf = flagByte (s.drawRows ox oy n).collided :=
  State.reg_setReg_self _ vf _

theorem State.collided_drawRows_iff_pixel :
    (s.drawRows ox oy n).collided = true ↔
      ∃ p < 2048, spriteCovers s ox oy n (p % 64) (p / 64) = true ∧ s.pixel p = true :=
  (s.collided_drawRows ox oy n).trans (exists_pixel_iff fun col row =>
    spriteCovers s ox oy n col row = true ∧ Display.lit s.display col row = true)

theorem State.vf_drawSprite_eq_one_iff :
    (s.drawSprite ox oy n).reg vf = 1 ↔
      ∃ p < 2048, spriteCovers s ox oy n (p % 64) (p / 64) = true ∧ s.pixel p = true := by
  rw [State.vf_drawSprite, flagByte_eq_one_iff, State.collided_drawRows_iff_pixel]

theorem State.vf_drawSprite_eq_zero_iff :
    (s.drawSprite ox oy n).reg vf = 0 ↔
      ∀ p < 2048, spriteCovers s ox oy n (p % 64) (p / 64) = true → s.pixel p = false := by
  rw [State.vf_drawSprite, flagByte_eq_zero_iff, ← Bool.not_eq_true, State.collided_drawRows_iff_pixel]
  simp only [not_exists, not_and, Bool.not_eq_true]

theorem State.onlyChanges_drawSprite : OnlyChanges s (s.drawSprite ox oy n) ({.v vf} ∪ allPixels) :=
  Set.union_comm _ _ ▸ (s.onlyChanges_setDisplay _).then (State.onlyChanges_setReg _ vf _)

end

/-- Settles O51: the rules of a drawn sprite, at the origin the old registers give. -/
theorem drawXorsTheSprite : Obligations.DrawXorsTheSprite := by
  intro s x y n
  refine ⟨_, exec_drw s x y n, fun p hp => s.pixel_drawSprite _ _ _ hp, ?_, ?_, s.onlyChanges_drawSprite _ _ _⟩
  · rintro ⟨p, hp, hlit, hcovers⟩
    exact (s.vf_drawSprite_eq_one_iff _ _ _).2 ⟨p, hp, hcovers, hlit⟩
  · intro hclear
    refine (s.vf_drawSprite_eq_zero_iff _ _ _).2 fun p hp hcovers => Bool.eq_false_iff.2 fun hlit => ?_
    exact Bool.false_ne_true ((hclear p hp hlit).symm.trans hcovers)

/-! ## Drawing twice (rule R132, conflict C3) -/

/-- Which pixels a sprite covers depends on `I` and memory alone. -/
theorem spriteCovers_congr {s u : State} (hindex : u.index = s.index) (hmem : ∀ a, u.readByte a = s.readByte a)
    (ox oy n col row : Nat) : spriteCovers u ox oy n col row = spriteCovers s ox oy n col row := by
  unfold spriteCovers State.ea
  rw [hindex, hmem]

section
variable {s u : State} {ox oy n : Nat}
variable (hdisplay : u.display = (s.drawSprite ox oy n).display)
include hdisplay

theorem State.pixel_before_second_drawSprite {p : Nat} (hp : p < 2048) :
    u.pixel p = (s.pixel p ^^ spriteCovers s ox oy n (p % 64) (p / 64)) :=
  (congrArg (Display.lit · (p % 64) (p / 64)) hdisplay).trans (s.pixel_drawSprite ox oy n hp)

variable (hcovers : ∀ col row, spriteCovers u ox oy n col row = spriteCovers s ox oy n col row)
include hcovers

theorem State.pixel_second_drawSprite {p : Nat} (hp : p < 2048) :
    (u.drawSprite ox oy n).pixel p = s.pixel p := by
  rw [u.pixel_drawSprite ox oy n hp, State.pixel_before_second_drawSprite hdisplay hp, hcovers,
    Bool.xor_assoc, Bool.xor_self, Bool.xor_false]

/-- A covered pixel is unlit at the second draw exactly when it was lit at the first. -/
theorem State.vf_second_drawSprite_eq_zero_iff :
    (u.drawSprite ox oy n).reg vf = 0 ↔
      ∀ p < 2048, spriteCovers s ox oy n (p % 64) (p / 64) = true → s.pixel p = true := by
  rw [State.vf_drawSprite_eq_zero_iff]
  refine forall₂_congr fun p hp => ?_
  rw [hcovers, State.pixel_before_second_drawSprite hdisplay hp]
  refine forall_congr' fun hc => ?_
  rw [hc, Bool.xor_true, Bool.not_eq_false']

/-- After a draw without collision a covered pixel is lit, and the second draw meets it. -/
theorem State.vf_second_drawSprite_of_no_collision (hfirst : (s.drawSprite ox oy n).reg vf = 0)
    {p : Nat} (hp : p < 2048) (hc : spriteCovers s ox oy n (p % 64) (p / 64) = true) :
    (u.drawSprite ox oy n).reg vf = 1 := by
  have hunlit : s.pixel p = false := (s.vf_drawSprite_eq_zero_iff ox oy n).1 hfirst p hp hc
  refine (u.vf_drawSprite_eq_one_iff ox oy n).2 ⟨p, hp, (hcovers _ _).trans hc, ?_⟩
  rw [State.pixel_before_second_drawSprite hdisplay hp, hunlit, hc, Bool.false_xor]

end

/-- Settles O52: the second draw covers the same pixels as the first, so it toggles back what the first toggled. -/
theorem drawingTwiceRestoresTheDisplay : Obligations.DrawingTwiceRestoresTheDisplay := by
  intro s t u x y x' y' n hexec hdisplay hindex hmem hcol hrow
  obtain rfl := Host.Outcome.next.inj ((exec_drw s x y n).symm.trans hexec)
  have hcovers := spriteCovers_congr hindex hmem ((s.reg x).toNat % 64) ((s.reg y).toNat % 32) n.toNat
  refine ⟨_, hcol ▸ hrow ▸ exec_drw u x' y' n, fun p hp => State.pixel_second_drawSprite hdisplay hcovers hp, ?_,
    State.vf_second_drawSprite_eq_zero_iff hdisplay hcovers⟩
  rintro hfirst ⟨p, hp, hc⟩
  exact State.vf_second_drawSprite_of_no_collision hdisplay hcovers hfirst hp hc

end Sys2Proof.Machine
end

section
/-! PROOFS. Keys and timers (`44_keys_and_timers.md`, rules R140 to R145). -/

namespace Sys2Proof.Machine

/-! ## The skips on a key (rules R140, R141, R165) -/

/-- The fields of formats I and X as a number (rule R62). -/
theorem toNat_packI (n1 : Nibble) (x : Reg) (nn : Byte) :
    (packI n1 x nn).toNat = 4096 * n1.toNat + 256 * x.toNat + nn.toNat := by
  rw [packI, BitVec.toNat_append, ← Nat.shiftLeft_add_eq_or_of_lt (x ++ nn).isLt, BitVec.toNat_append,
    ← Nat.shiftLeft_add_eq_or_of_lt nn.isLt, Nat.shiftLeft_eq, Nat.shiftLeft_eq]
  omega

/-- The word of an instruction of the key family E as a number (rules R62, R64). -/
theorem toNat_packI_E (x : Reg) (nn : Byte) : (packI 0xE#4 x nn).toNat = 0xE000 + nn.toNat + 256 * x.toNat := by
  rw [toNat_packI]
  exact Nat.add_right_comm _ _ _

/-- Settles O53: a key index of at most 15 leads to a skip on the level of that key, one above 15 to fault entry. -/
theorem keySkipsAdvanceThePcOrFault : Obligations.KeySkipsAdvanceThePcOrFault := by
  refine ⟨fun s x hindex => ?_, fun s x hindex => ?_⟩
  · have hk := keyIndex_of_le hindex
    exact ⟨⟨_, exec_skp_of_index hk, s.toNat_pc_skipIf Iff.rfl, s.onlyChanges_skipIf _⟩,
      ⟨_, exec_sknp_of_index hk, s.toNat_pc_skipIf (.of_eq (Bool.not_eq_true' _)), s.onlyChanges_skipIf _⟩⟩
  · have hk := keyIndex_of_gt hindex
    exact ⟨⟨_, exec_skp_of_no_index hk, rfl, toNat_packI_E x 0x9E#8, s.onlyChanges_raise _ _⟩,
      ⟨_, exec_sknp_of_no_index hk, rfl, toNat_packI_E x 0xA1#8, s.onlyChanges_raise _ _⟩⟩

/-! ## Waiting for a key (rule R142) -/

/-- `pc` as a number after it goes back by 2 (rule R142). -/
theorem State.toNat_pc_rewind (s : State) : s.rewind.pc.toNat = (s.pc.toNat + 65536 - 2) % 65536 := by
  rw [State.rewind_pc]
  bv_omega

/-- Going back by 2 undoes the advance of the fetch (rules R13, R142). -/
theorem State.rewind_advance (s : State) : s.advance.rewind = s := by
  have hpc : s.pc + 2 - 2 = s.pc := BitVec.add_sub_cancel ..
  exact congrArg s.setPc hpc

/-- Settles O54: the lowest pressed key, when there is one, goes to `V[x]`; when there is none, `pc` goes back. -/
theorem keyWaitTakesTheLowestKeyOrRewinds : Obligations.KeyWaitTakesTheLowestKeyOrRewinds := by
  refine ⟨fun s x k hk hdown hlowest => ?_, fun s x hnone => ?_⟩
  · refine ⟨_, exec_ldVxK_of_key ((s.firstKey_some k).mpr ⟨hk, hdown, hlowest⟩), ?_, s.onlyChanges_setReg x _⟩
    rw [State.reg_setReg_self, BitVec.toNat_ofNat]
    exact Nat.mod_eq_of_lt (by omega)
  · exact ⟨_, exec_ldVxK_of_no_key (s.firstKey_none.mpr hnone), s.toNat_pc_rewind, s.onlyChanges_setPc _⟩

/-- Settles O55: the fetch advances `pc` and the instruction takes it back, so that the STEP answers the state it
began with, the load window closed. -/
theorem keyWaitWithNoKeyRepeats : Obligations.KeyWaitWithNoKeyRepeats := by
  intro s u x hnext hrun hpc hdecode hnone
  have hkeys : u.closeWindow.advance.firstKey = none := u.firstKey_none.mpr hnone
  have hstep : step s = .next u.closeWindow :=
    calc step s = stepEvent u := step_of_nextEvent hnext
      _ = exec (.ldVxK x) u.closeWindow.advance :=
        stepEvent_of_decode (u.halted_eq_false_iff.mpr hrun) (u.fetchable_iff.mpr hpc) hdecode
      _ = .next u.closeWindow.advance.rewind := exec_ldVxK_of_no_key hkeys
      _ = .next u.closeWindow := by rw [State.rewind_advance]
  exact ⟨_, hstep, rfl, OnlyChanges.refl _ _⟩

/-! ## The timers (rules R143 to R145) -/

/-- Settles O56: each of the three is one assignment, of a register or of a timer. -/
theorem timerTransfers : Obligations.TimerTransfers :=
  fun s x => ⟨⟨_, rfl, s.reg_setReg_self x s.dt, s.onlyChanges_setReg x _⟩,
    ⟨_, rfl, rfl, s.onlyChanges_setDt _⟩, ⟨_, rfl, rfl, s.onlyChanges_setSt _⟩⟩

end Sys2Proof.Machine
end

section
/-! PROOFS. The memory instructions (`45_memory_ops.md`, rules R150 to R152). -/

namespace Sys2Proof.Machine

/-! ## What the three instructions do -/

theorem exec_ldBVx (s : State) (x : Reg) :
    exec (.ldBVx x) s = .next (((s.writeByte (s.ea 0) (hundreds (s.reg x))).writeByte (s.ea 1)
      (tens (s.reg x))).writeByte (s.ea 2) (ones (s.reg x))) := rfl

theorem exec_ldMiVx (s : State) (x : Reg) : exec (.ldMiVx x) s = .next (s.storeRegs (x.toNat + 1)) := rfl

theorem exec_ldVxMi (s : State) (x : Reg) : exec (.ldVxMi x) s = .next (s.loadRegs (x.toNat + 1)) := rfl

/-! ## The decimal digits of a byte (rule R150)

Each fits a byte, so no truncation. -/

theorem toNat_hundreds (b : Byte) : (hundreds b).toNat = b.toNat / 100 := by
  rw [hundreds, BitVec.toNat_ofNat]
  exact Nat.mod_eq_of_lt (by omega)

theorem toNat_tens (b : Byte) : (tens b).toNat = b.toNat / 10 % 10 := by
  rw [tens, BitVec.toNat_ofNat]
  exact Nat.mod_eq_of_lt (by omega)

theorem toNat_ones (b : Byte) : (ones b).toNat = b.toNat % 10 := by
  rw [ones, BitVec.toNat_ofNat]
  exact Nat.mod_eq_of_lt (by omega)

/-! ## Fx33 (rule R150) -/

theorem State.readByte_writeByte_self (s : State) (a : Addr) (b : Byte) : (s.writeByte a b).readByte a = b := by
  rw [State.readByte_writeByte, if_pos rfl]

theorem State.readByte_writeByte_of_ne (s : State) {a q : Addr} (b : Byte) (h : q ≠ a) :
    (s.writeByte a b).readByte q = s.readByte q := by
  rw [State.readByte_writeByte, if_neg h]

/-- Settles O57: the three addresses differ, so a later store does not hit an earlier digit. -/
theorem bcdStoresThreeDigits : Obligations.BcdStoresThreeDigits := by
  intro s x
  have h01 : s.ea 0 ≠ s.ea 1 := mt (s.ea_inj (by decide) (by decide)) (by decide)
  have h02 : s.ea 0 ≠ s.ea 2 := mt (s.ea_inj (by decide) (by decide)) (by decide)
  have h12 : s.ea 1 ≠ s.ea 2 := mt (s.ea_inj (by decide) (by decide)) (by decide)
  refine ⟨_, exec_ldBVx s x, ?_, ?_, ?_, onlyChanges_execLdBVx (exec_ldBVx s x)⟩
  · rw [State.readByte_writeByte_of_ne _ _ h02, State.readByte_writeByte_of_ne _ _ h01,
      State.readByte_writeByte_self, toNat_hundreds]
  · rw [State.readByte_writeByte_of_ne _ _ h12, State.readByte_writeByte_self, toNat_tens]
  · rw [State.readByte_writeByte_self, toNat_ones]

/-! ## Register blocks (rules R151, R152) -/

/-- After Fx55 each register up to `V[x]` is in memory at its offset (rule R151). -/
theorem State.readByte_storeRegs_of_le (s : State) {x r : Reg} (h : r.toNat ≤ x.toNat) :
    (s.storeRegs (x.toNat + 1)).readByte (s.ea r.toNat) = s.reg r := by
  rw [(s.storeRegs_spec (x.toNat + 1) x.isLt).1 r.toNat (Nat.lt_succ_of_le h), BitVec.ofNat_toNat,
    BitVec.setWidth_eq]

/-- After Fx65 each register up to `V[x]` is the byte at its offset (rule R152). -/
theorem State.reg_loadRegs_of_le (s : State) {x r : Reg} (h : r.toNat ≤ x.toNat) :
    (s.loadRegs (x.toNat + 1)).reg r = s.readByte (s.ea r.toNat) := by
  rw [s.reg_loadRegs (x.toNat + 1) x.isLt, if_pos (Nat.lt_succ_of_le h)]

/-- A store of registers does not move the data addresses: it leaves `I` alone (rule R151). -/
theorem State.index_storeRegs (s : State) (k : Nat) : (s.storeRegs k).index = s.index := by
  rw [s.storeRegs_eq k]

/-- A data address depends on `I` alone (rule R46). -/
theorem State.ea_congr {s u : State} (h : u.index = s.index) (off : Nat) : u.ea off = s.ea off := by
  rw [State.ea, State.ea, h]

/-- Settles O58: the bytes are those of the stored block, the frame is the frame of the store. -/
theorem storeRegistersFillsMemory : Obligations.StoreRegistersFillsMemory :=
  fun s x => ⟨_, exec_ldMiVx s x, fun _ hr => s.readByte_storeRegs_of_le hr, s.onlyChanges_storeRegs _⟩

/-- Settles O59: the registers are those of the loaded block, the frame is the frame of the load. -/
theorem loadRegistersReadsMemory : Obligations.LoadRegistersReadsMemory :=
  fun s x => ⟨_, exec_ldVxMi s x, fun _ hr => s.reg_loadRegs_of_le hr, onlyChanges_execLdVxMi (exec_ldVxMi s x)⟩

/-- Settles O60: with `I` kept, the load reads each register from where the store put it. -/
theorem storeThenLoadRestoresRegisters : Obligations.StoreThenLoadRestoresRegisters := by
  intro s t u x hstore hindex hmem
  obtain rfl := Host.Outcome.next.inj ((exec_ldMiVx s x).symm.trans hstore)
  refine ⟨_, exec_ldVxMi u x, fun r hr => ?_⟩
  calc (u.loadRegs (x.toNat + 1)).reg r
      _ = u.readByte (u.ea r.toNat) := u.reg_loadRegs_of_le hr
      _ = (s.storeRegs (x.toNat + 1)).readByte (s.ea r.toNat) := by
        rw [hmem, State.ea_congr (hindex.trans (s.index_storeRegs _))]
      _ = s.reg r := s.readByte_storeRegs_of_le hr

end Sys2Proof.Machine
end

section
/-! PROOFS. Faults, the halted core and the events between instructions (`60_exceptions.md`, rules R160 to R177). -/

namespace Sys2Proof.Machine

variable {s t : State}

/-! ## What LOAD, TICK and KEYS write, and which events write the latch (rules R168, R175, R177) -/

/-- A LOAD writes memory and the load window, and nothing else (rules R192, R193). -/
theorem State.loadEvent_eq (s : State) (image : List Byte) : s.loadEvent image =
    { s with mem := (s.loadEvent image).mem, loadWindow := (s.loadEvent image).loadWindow } := by
  unfold State.loadEvent
  split
  · rw [s.storeImage_eq]
    rfl
  · rfl

/-- RESET and STEP are the only events that write the latch (rules R160, R168). -/
theorem handle_fault {e : Event} (h : handle e s = .next t) (hreset : e ≠ .reset) (hstep : e ≠ .step) :
    t.fault = s.fault := by
  rcases handle_cases h with ⟨he, -⟩ | ⟨image, -, rfl⟩ | ⟨he, -⟩ | ⟨-, rfl⟩ | ⟨k, -, rfl⟩ | ⟨-, rfl⟩
  · exact absurd he hreset
  · rw [s.loadEvent_eq]
  · exact absurd he hstep
  · rfl
  · rfl
  · rfl

/-- TICK writes the two timers (rule R175). -/
theorem State.onlyChanges_tickEvent (s : State) : OnlyChanges s s.tickEvent {.dt, .st} :=
  (s.onlyChanges_setDt _).then (State.onlyChanges_setSt _ _)

/-- Settles O19: the timers by what one TICK makes of a byte, the rest by the frame of TICK. -/
theorem tickDecrementsBothTimers : Obligations.TickDecrementsBothTimers :=
  fun _ u hnext => ⟨_, step_of_nextEvent hnext, toNat_timerAfterTick u.dt, toNat_timerAfterTick u.st,
    u.onlyChanges_tickEvent⟩

/-- Settles O21: the event is one assignment, of all the flags. -/
theorem keysEventReplacesAllFlags : Obligations.KeysEventReplacesAllFlags :=
  fun _ u k hnext => ⟨_, step_of_nextEvent hnext, fun _ _ => rfl, u.onlyChanges_setKeys k⟩

/-! ## Fault entry (rules R160 to R166) -/

/-- The words of no pattern are those the decoder refuses (rules R64 to R66). -/
theorem wellFormedWord_eq_false_iff {w : Word} : wellFormedWord w = false ↔ ∃ e, decodeWord w = .error e := by
  obtain ⟨-, hmap⟩ := Laws.decodeFollowsTheOpcodeMap
  obtain ⟨-, hdecodes, hrow⟩ := hmap w
  have hlegal : wellFormedWord w = true ↔ ∃ r ∈ opcodeMap, r.matches w := List.any_eq_true
  rw [← Bool.not_eq_true, hlegal]
  cases hd : decodeWord w with
  | ok i => exact ⟨fun hno => absurd ⟨i.row, hrow i hd⟩ hno, nofun⟩
  | error e =>
    refine ⟨fun _ => ⟨e, rfl⟩, fun _ hmatch => ?_⟩
    obtain ⟨i, hi⟩ := hdecodes hmatch
    cases hi.symm.trans hd

/-- The condition of a fault's row in the table of rule R160, for the faults that the fetched word raises. -/
def State.FetchedWordRaises (s : State) : FaultCode → Prop
  | .illegalOpcode => wellFormedWord s.fetchWord = false
  | .stackOverflow => (∃ nnn, decodeWord s.fetchWord = .ok (.call nnn)) ∧ s.sp.val = 16
  | .stackUnderflow => decodeWord s.fetchWord = .ok .ret ∧ s.sp.val = 0
  | .keyIndexOutOfRange =>
    ∃ x, (decodeWord s.fetchWord = .ok (.skp x) ∨ decodeWord s.fetchWord = .ok (.sknp x)) ∧ 15 < (s.reg x).toNat
  | .none | .fetchOutOfRange => False

/-- Code 4 is the fetch's own (rule R160). -/
theorem State.FetchedWordRaises.number_ne {c : FaultCode} (hc : s.FetchedWordRaises c) : c.number ≠ 4 := by
  cases c with
  | fetchOutOfRange => exact hc.elim
  | _ => decide

/-- An instruction that halts a running core raises the fault of its row with the fetched word (rules R163 to
R166). -/
theorem exec_halts {i : Instr} (hrun : s.running) (hd : decodeWord s.fetchWord = .ok i)
    (h : exec i s.closeWindow.advance = .next t) (ht : ¬ t.running) :
    ∃ c, s.FetchedWordRaises c ∧ t = s.closeWindow.advance.raise c s.fetchWord := by
  rw [← Laws.encodeOfDecodeIsTheWord _ i hd]
  rcases exec_fault i _ t h with hsame | ⟨nnn, rfl, hsp, ht⟩ | ⟨rfl, hsp, ht⟩ | ⟨x, hi, hx, ht⟩
  · exact absurd ((congrArg FaultLatch.code hsame).trans hrun) ht
  · exact ⟨.stackOverflow, ⟨⟨nnn, hd⟩, hsp⟩, ht⟩
  · exact ⟨.stackUnderflow, ⟨hd, hsp⟩, ht⟩
  · have hword {j : Instr} (hj : i = j) : decodeWord s.fetchWord = .ok j := hj ▸ hd
    exact ⟨.keyIndexOutOfRange, ⟨x, hi.imp hword hword, hx⟩, ht⟩

/-- The two ways a STEP halts a running core: at the fetch, with `pc` where it was, or by the fetched word, with
`pc` advanced. Either way the latch is all else it writes (rules R160, R166). -/
theorem stepEvent_halts (hrun : s.running) (h : stepEvent s = .next t) (ht : ¬ t.running) :
    (0x0FFE < s.pc.toNat ∧ t = s.closeWindow.raise .fetchOutOfRange 0) ∨
    (s.pc.toNat ≤ 0x0FFE ∧ ∃ c, s.FetchedWordRaises c ∧ t = s.closeWindow.advance.raise c s.fetchWord) := by
  rcases stepEvent_cases h with ⟨-, rfl⟩ | ⟨-, hf, hfault⟩ | ⟨-, hf, hillegal, hfault⟩ | ⟨-, hf, i, hd, hexec⟩
  · exact absurd hrun ht
  · exact .inl ⟨by simpa [State.fetchable] using hf, hfault⟩
  · exact .inr ⟨s.fetchable_iff.mp hf, .illegalOpcode, wellFormedWord_eq_false_iff.mpr hillegal, hfault⟩
  · exact .inr ⟨s.fetchable_iff.mp hf, exec_halts hrun hd hexec ht⟩

/-- An event that halts a running core is a STEP (rule R160). -/
theorem eq_step_of_halts {e : Event} (hrun : s.running) (h : handle e s = .next t) (ht : ¬ t.running) :
    e = .step := by
  by_contra hstep
  by_cases hreset : e = .reset
  · subst hreset
    cases h
    exact ht rfl
  · exact ht ((congrArg FaultLatch.code (handle_fault h hreset hstep)).trans hrun)

/-- Settles O13: only a STEP halts the core, and it does so at the fetch or under the condition of a code's row. -/
theorem faultsAreExactlyTheFive : Obligations.FaultsAreExactlyTheFive := by
  intro s u t e hnext hrun hstep ht
  have hhandle := (step_of_nextEvent hnext).symm.trans hstep
  obtain rfl := eq_step_of_halts hrun hhandle ht
  refine ⟨rfl, ?_⟩
  rcases stepEvent_halts hrun hhandle ht with ⟨hpc, rfl⟩ | ⟨hpc, c, hc, rfl⟩
  · exact .inr (.inr (.inr (.inl ⟨rfl, hpc, rfl⟩)))
  · cases c with
    | illegalOpcode => exact .inl ⟨rfl, hpc, hc, rfl⟩
    | stackOverflow =>
      obtain ⟨hcall, hsp⟩ := hc
      exact .inr (.inl ⟨rfl, hpc, hcall, hsp, rfl⟩)
    | stackUnderflow =>
      obtain ⟨hret, hsp⟩ := hc
      have hword : u.fetchWord = 0x00EE := (Laws.encodeOfDecodeIsTheWord _ _ hret).symm
      exact .inr (.inr (.inl ⟨rfl, hpc, hword, hsp, hword⟩))
    | keyIndexOutOfRange => exact .inr (.inr (.inr (.inr ⟨rfl, hpc, hc, rfl⟩)))
    | none | fetchOutOfRange => exact hc.elim

/-- The frame of a fault raised by the fetched word (rule R166). -/
theorem State.onlyChanges_advance_raise (s : State) (c : FaultCode) (op : Word) :
    OnlyChanges s (s.advance.raise c op) ({.pc} ∪ theLatch) :=
  (s.onlyChanges_setPc _).then (State.onlyChanges_raise _ c op)

/-- The advance of a fetch that is in range does not wrap (rule R45). -/
theorem State.toNat_pc_advance (h : s.pc.toNat ≤ 0x0FFE) : s.advance.pc.toNat = s.pc.toNat + 2 :=
  toNat_add_two (h.trans (by decide))

/-- Settles O14: a fault at the fetch has code 4, a fault raised by the fetched word another one. -/
theorem faultEntryWritesTheLatchAlone : Obligations.FaultEntryWritesTheLatchAlone := by
  intro s u t hnext hrun hstep ht
  rcases stepEvent_halts hrun ((step_of_nextEvent hnext).symm.trans hstep) ht with
    ⟨-, rfl⟩ | ⟨hpc, c, hc, rfl⟩
  · exact ⟨fun _ => ⟨rfl, rfl⟩, fun hcode => absurd rfl hcode,
      (u.closeWindow.onlyChanges_raise _ _).mono Set.subset_union_right⟩
  · exact ⟨fun h4 => absurd h4 hc.number_ne, fun _ => ⟨rfl, State.toNat_pc_advance hpc⟩,
      u.closeWindow.onlyChanges_advance_raise c _⟩

/-- Settles O11: the STEP ends at the fetch. -/
theorem fetchOutOfRangeFault : Obligations.FetchOutOfRangeFault := by
  intro s u hnext hrun hpc
  have hf : u.fetchable = false := by simpa [State.fetchable] using hpc
  have hstep := stepEvent_of_not_fetchable (u.halted_eq_false_iff.mpr hrun) hf
  exact ⟨_, (step_of_nextEvent hnext).trans hstep, rfl, rfl, u.closeWindow.onlyChanges_raise _ _⟩

/-- Settles O12: the STEP ends at the decoder, which refuses the word. -/
theorem illegalOpcodeFault : Obligations.IllegalOpcodeFault := by
  intro s u hnext hrun hpc hword
  obtain ⟨e, he⟩ := wellFormedWord_eq_false_iff.mp hword
  have hstep := stepEvent_of_illegal (u.halted_eq_false_iff.mpr hrun) (u.fetchable_iff.mpr hpc) he
  exact ⟨_, (step_of_nextEvent hnext).trans hstep, rfl, rfl, State.toNat_pc_advance hpc,
    u.closeWindow.onlyChanges_advance_raise _ _⟩

/-! ## The halted core (rules R167, R168) -/

theorem State.halted_iff_not_running (s : State) : s.halted = true ↔ ¬ s.running := by
  rw [← s.halted_eq_false_iff, Bool.not_eq_false]

/-- A halted core refuses every LOAD (rule R167). -/
theorem State.loadEvent_of_halted (h : s.halted = true) (image : List Byte) : s.loadEvent image = s :=
  if_neg (by simp [State.acceptsLoad, h])

/-- Settles O15, event by event: STEP and LOAD meet the halted core's refusal; TICK, KEYS and OBSERVE do not ask
whether it is halted. -/
theorem haltedCoreTakesNoStep : Obligations.HaltedCoreTakesNoStep := by
  intro s u e hnext hnot
  have hhalted := u.halted_iff_not_running.mpr hnot
  refine ⟨?_, ?_, ?_, ?_, ?_⟩
  · rintro rfl
    exact (step_of_nextEvent hnext).trans (stepEvent_of_halted hhalted)
  · rintro rfl
    exact observeShowsEveryPieceAndChangesNothing s u hnext
  · rintro image rfl
    exact (step_of_nextEvent hnext).trans (congrArg _ (State.loadEvent_of_halted hhalted image))
  · rintro rfl
    exact tickDecrementsBothTimers s u hnext
  · rintro k rfl
    exact ⟨_, step_of_nextEvent hnext, rfl, u.onlyChanges_setKeys k⟩

/-- Settles O16: a STEP of a halted core changes nothing, the other events but RESET write no latch, and RESET empties
it. -/
theorem onlyResetClearsTheLatch : Obligations.OnlyResetClearsTheLatch := by
  intro s u t e hnext hnot hstep
  have hhandle := (step_of_nextEvent hnext).symm.trans hstep
  refine ⟨fun hreset => ?_, ?_⟩
  · by_cases he : e = .step
    · subst he
      cases (stepEvent_of_halted (u.halted_iff_not_running.mpr hnot)).symm.trans hhandle
      rfl
    · exact handle_fault hhandle hreset he
  · rintro rfl
    cases hhandle
    rfl

/-! ## Who makes a timer rise (rules R144, R145, R175) -/

theorem dt_mem_writes {i : Instr} : .dt ∈ writes s i ↔ ∃ x, i = .ldDtVx x := by
  cases i <;> simp [writes, allPixels, dataBytes, theLatch]

theorem st_mem_writes {i : Instr} : .st ∈ writes s i ↔ ∃ x, i = .ldStVx x := by
  cases i <;> simp [writes, allPixels, dataBytes, theLatch]

/-- The piece is a timer. -/
def Piece.IsTimer (p : Piece) : Prop := p = .dt ∨ p = .st

/-- A timer reads the same where both timers are the same. -/
theorem Piece.IsTimer.get_eq {p : Piece} (hp : p.IsTimer) (hdt : t.dt = s.dt) (hst : t.st = s.st) :
    t.get p = s.get p := by
  rcases hp with rfl | rfl
  · exact congrArg BitVec.toNat hdt
  · exact congrArg BitVec.toNat hst

/-- A STEP changes a timer only by an instruction that writes it (rule R7). -/
theorem stepEvent_timer {p : Piece} (hp : p.IsTimer) (h : stepEvent s = .next t) (hne : t.get p ≠ s.get p) :
    ∃ i, decodeWord s.fetchWord = .ok i ∧ p ∈ writes s.closeWindow.advance i := by
  rcases stepEvent_cases h with ⟨-, rfl⟩ | ⟨-, -, rfl⟩ | ⟨-, -, -, rfl⟩ | ⟨-, -, i, hd, hexec⟩
  · exact absurd rfl hne
  · exact (hne (hp.get_eq rfl rfl)).elim
  · exact (hne (hp.get_eq rfl rfl)).elim
  · refine ⟨i, hd, by_contra fun hmem => hne ?_⟩
    have hframe := (instructionsChangeOnlyWhatTheyAssign i _ t hexec).1 p hmem
    exact hframe.trans (hp.get_eq rfl rfl)

/-- No event but a STEP makes a timer rise: RESET sets it to 0, TICK takes it down, the others leave it (rules R175,
R190). -/
theorem handle_timer_le {p : Piece} (hp : p.IsTimer) {e : Event} (h : handle e s = .next t)
    (hstep : e ≠ .step) : t.get p ≤ s.get p := by
  rcases handle_cases h with ⟨-, rfl⟩ | ⟨image, -, rfl⟩ | ⟨he, -⟩ | ⟨-, rfl⟩ | ⟨k, -, rfl⟩ | ⟨-, rfl⟩
  · rcases hp with rfl | rfl <;> exact Nat.zero_le _
  · rw [s.loadEvent_eq]
    exact Nat.le_of_eq (hp.get_eq rfl rfl)
  · exact absurd he hstep
  · rcases hp with rfl | rfl <;> exact (toNat_timerAfterTick _).trans_le (Nat.sub_le _ _)
  · exact Nat.le_of_eq (hp.get_eq rfl rfl)
  · exact Nat.le_refl _

/-- A timer rises only in a STEP whose instruction writes it (rule R175). -/
theorem handle_timer_rises {p : Piece} (hp : p.IsTimer) {e : Event} (h : handle e s = .next t)
    (hrise : s.get p < t.get p) :
    e = .step ∧ ∃ i, decodeWord s.fetchWord = .ok i ∧ p ∈ writes s.closeWindow.advance i := by
  by_cases he : e = .step
  · subst he
    exact ⟨rfl, stepEvent_timer hp h hrise.ne'⟩
  · exact absurd (handle_timer_le hp h he) hrise.not_ge

/-- Settles O20: of all instructions Fx15 alone writes DT, and Fx18 alone ST. -/
theorem timersRiseOnlyByTheirInstruction : Obligations.TimersRiseOnlyByTheirInstruction := by
  intro s u t e hnext hstep
  have hhandle := (step_of_nextEvent hnext).symm.trans hstep
  refine ⟨fun hrise => ?_, fun hrise => ?_⟩
  · obtain ⟨he, i, hd, hmem⟩ := handle_timer_rises (.inl rfl) hhandle hrise
    obtain ⟨x, rfl⟩ := dt_mem_writes.mp hmem
    exact ⟨he, x, hd⟩
  · obtain ⟨he, i, hd, hmem⟩ := handle_timer_rises (.inr rfl) hhandle hrise
    obtain ⟨x, rfl⟩ := st_mem_writes.mp hmem
    exact ⟨he, x, hd⟩

end Sys2Proof.Machine
end

section
/-! PROOFS. Reset, load and the boot order (`70_reset_and_hazards.md`, rules R190 to R194). -/

namespace Sys2Proof.Machine

variable {s t : State}

/-! ## RESET (rule R190) -/

/-- Settles O18: RESET answers the reset state of the same FONT, but for the draws and the host's plan, which no
piece of the core reads. -/
theorem resetEventRestoresEveryPiece : Obligations.ResetEventRestoresEveryPiece := by
  intro s u hnext
  refine ⟨_, step_of_nextEvent hnext, fun p hp => ?_, rfl⟩
  cases p with
  | draws => exact absurd rfl hp
  | _ => rfl

/-! ## LOAD (rules R192, R193) -/

theorem State.acceptsLoad_iff (s : State) (image : List Byte) :
    s.acceptsLoad image = true ↔ s.loadWindow = true ∧ s.running ∧ image.length ≤ 3584 := by
  simp [State.acceptsLoad, s.halted_eq_false_iff, and_assoc]

theorem State.loadEvent_of_accepted {image : List Byte} (hw : s.loadWindow = true) (hrun : s.running)
    (hlen : image.length ≤ 3584) : s.loadEvent image = (s.storeImage 0x200 image).closeWindow :=
  if_pos ((s.acceptsLoad_iff image).mpr ⟨hw, hrun, hlen⟩)

/-- Outside the window, into a halted core, or with an image that is too long (rules R167, R192, R193). -/
theorem State.loadEvent_of_refused {image : List Byte}
    (h : ¬ (s.loadWindow = true ∧ s.running ∧ image.length ≤ 3584)) : s.loadEvent image = s :=
  if_neg (mt (s.acceptsLoad_iff image).mp h)

/-- Storing an image writes the bytes at its addresses and nothing else (rule R192). -/
theorem State.onlyChanges_storeImage (s : State) (a : Nat) (image : List Byte) :
    OnlyChanges s (s.storeImage a image)
      {q | ∃ i, i < image.length ∧ q = .byte (BitVec.ofNat 12 (a + i))} := by
  induction image generalizing s a with
  | nil => exact OnlyChanges.refl s _
  | cons b bs ih =>
    refine ((s.onlyChanges_writeByte (BitVec.ofNat 12 a) b).mono ?_).trans ((ih _ (a + 1)).mono ?_)
    · rintro q rfl
      exact ⟨0, Nat.succ_pos _, rfl⟩
    · rintro q ⟨i, hi, rfl⟩
      exact ⟨i + 1, Nat.succ_lt_succ hi, by rw [Nat.add_right_comm, Nat.add_assoc]⟩

/-- What the host plans does not matter to an image (rule R192). -/
theorem State.storeImage_withEvents (s : State) (l : List Event) (a : Nat) (image : List Byte) :
    (s.withEvents l).storeImage a image = (s.storeImage a image).withEvents l := by
  induction image generalizing s a with
  | nil => rfl
  | cons b bs ih => exact ih (s.writeByte (BitVec.ofNat 12 a) b) (a + 1)

/-- What the host plans does not matter to a LOAD (rule R192). -/
theorem State.loadEvent_withEvents (s : State) (l : List Event) (image : List Byte) :
    (s.withEvents l).loadEvent image = (s.loadEvent image).withEvents l := by
  by_cases h : s.loadWindow = true ∧ s.running ∧ image.length ≤ 3584
  · obtain ⟨hw, hrun, hlen⟩ := h
    rw [State.loadEvent_of_accepted hw hrun hlen, State.loadEvent_of_accepted (s := s.withEvents l) hw hrun hlen,
      State.storeImage_withEvents]
    rfl
  · rw [State.loadEvent_of_refused h, State.loadEvent_of_refused (s := s.withEvents l) h]

/-- Settles O22: an accepted LOAD stores the image, and all it does beside that is close the window. -/
theorem loadCopiesTheImage : Obligations.LoadCopiesTheImage := by
  intro s u image hnext hrun hw
  have hstep : step s = .next (u.loadEvent image) := step_of_nextEvent hnext
  refine ⟨fun hlen => ?_, fun hlong => ?_⟩
  · rw [State.loadEvent_of_accepted hw hrun hlen] at hstep
    obtain ⟨hinside, -⟩ := u.storeImage_spec 0x200 image (by omega)
    obtain ⟨hpieces, hfont, -, henv⟩ := u.onlyChanges_storeImage 0x200 image
    exact ⟨_, hstep, hinside, hpieces, hfont, rfl, henv⟩
  · rwa [State.loadEvent_of_refused fun ⟨_, _, hlen⟩ => absurd hlong hlen.not_gt] at hstep

/-! ## The load window (rule R193) -/

/-- A STEP of a running core closes the window: it ends in fault entry, or in an instruction, and an instruction does
not touch the window. -/
theorem stepEvent_closes_window (hrun : s.running) (h : stepEvent s = .next t) : t.loadWindow = false := by
  rcases stepEvent_cases h with ⟨hhalted, -⟩ | ⟨-, -, rfl⟩ | ⟨-, -, -, rfl⟩ | ⟨-, -, i, -, hexec⟩
  · exact absurd hrun (s.halted_iff_not_running.mp hhalted)
  · rfl
  · rfl
  · obtain ⟨-, -, hwindow, -⟩ := instructionsChangeOnlyWhatTheyAssign i _ t hexec
    exact hwindow

/-- No LOAD that fits leaves the window of a running core open: it closes it, or finds it closed. -/
theorem State.loadEvent_closes_window {image : List Byte} (hrun : s.running) (hlen : image.length ≤ 3584) :
    (s.loadEvent image).loadWindow = false := by
  cases hw : s.loadWindow with
  | true => rw [State.loadEvent_of_accepted hw hrun hlen, State.closeWindow_loadWindow]
  | false => rw [State.loadEvent_of_refused (by simp [hw]), hw]

/-- Settles O23: the refused LOAD, and then event by event. -/
theorem loadIsAcceptedOnlyInItsWindow : Obligations.LoadIsAcceptedOnlyInItsWindow := by
  intro s u e hnext
  refine ⟨?_, fun t ht => ?_⟩
  · rintro image rfl hrefused
    have hnot : ¬ (u.loadWindow = true ∧ u.running ∧ image.length ≤ 3584) := by
      rintro ⟨hw, hrun, -⟩
      rcases hrefused with hclosed | hhalted
      · exact Bool.false_ne_true (hclosed.symm.trans hw)
      · exact hhalted hrun
    exact (step_of_nextEvent hnext).trans (congrArg _ (State.loadEvent_of_refused hnot))
  · have hhandle := (step_of_nextEvent hnext).symm.trans ht
    refine ⟨?_, ?_, ?_, ?_⟩
    · rintro rfl
      cases hhandle
      rfl
    · rintro image rfl hrun hlen
      cases hhandle
      exact State.loadEvent_closes_window hrun hlen
    · rintro rfl hrun
      exact stepEvent_closes_window hrun hhandle
    · rintro (rfl | rfl | ⟨k, rfl⟩) <;> cases hhandle <;> rfl

/-! ## The entry point (rule R191) -/

/-- The events planned first are taken first (rule R26). -/
theorem step_withEvents_cons (s : State) (e : Event) (l : List Event) :
    step (s.withEvents (e :: l)) = handle e (s.withEvents l) :=
  step_of_nextEvent (State.nextEvent_cons rfl)

/-- A STEP at the entry point executes the word that stands there (rules R45, R80, R191). -/
theorem stepEvent_at_entry (hrun : s.running) (hpc : s.pc = 0x0200) {i : Instr}
    (hdecode : decodeWord s.fetchWord = .ok i) :
    stepEvent s = exec i { s with pc := 0x0202, loadWindow := false } := by
  have hfetchable : s.fetchable = true := by rw [s.fetchable_iff, hpc]; decide
  have hadvance : s.closeWindow.advance = { s with pc := 0x0202, loadWindow := false } := by
    have hadd : s.pc + 2 = 0x0202 := by rw [hpc]; rfl
    rw [← hadd]
    rfl
  rw [stepEvent_of_decode (s.halted_eq_false_iff.mpr hrun) hfetchable hdecode, hadvance]

section
variable {hi lo : Byte} {rest : List Byte} (hpc : s.pc = 0x0200) (hw : s.loadWindow = true) (hrun : s.running)
  (hlen : (hi :: lo :: rest).length ≤ 3584)
include hpc hw hrun hlen

/-- After an accepted LOAD the word at the entry point is the first two bytes of the image (rules R44, R192). -/
theorem State.fetchWord_loadEvent : (s.loadEvent (hi :: lo :: rest)).fetchWord = wordOfBytes hi lo := by
  obtain ⟨hinside, -⟩ := s.storeImage_spec 0x200 (hi :: lo :: rest) (by omega)
  have hpcStored : (s.storeImage 0x200 (hi :: lo :: rest)).pc = 0x0200 := by rw [s.storeImage_eq, hpc]
  rw [State.loadEvent_of_accepted hw hrun hlen, State.closeWindow_fetchWord, State.fetchWord, hpcStored]
  exact congrArg₂ wordOfBytes (hinside 0 (by simp)) (hinside 1 (by simp))

/-- The first STEP after an accepted LOAD executes the first word of the image. -/
theorem stepEvent_loadEvent {i : Instr} (hdecode : decodeWord (wordOfBytes hi lo) = .ok i) :
    stepEvent (s.loadEvent (hi :: lo :: rest)) =
      exec i { s.loadEvent (hi :: lo :: rest) with pc := 0x0202, loadWindow := false } := by
  refine stepEvent_at_entry ?_ ?_ ((congrArg _ (State.fetchWord_loadEvent hpc hw hrun hlen)).trans hdecode)
  · rwa [s.loadEvent_eq]
  · rwa [s.loadEvent_eq]

/-- The two events one after the other, whatever the host does after them. -/
theorem step_load_then_step {i : Instr} (hdecode : decodeWord (wordOfBytes hi lo) = .ok i) :
    ∃ t, step (s.withEvents [.load (hi :: lo :: rest), .step]) = .next t ∧
      step t = exec i { t with pc := 0x0202, loadWindow := false, environment := s.environment } := by
  obtain ⟨-, henv, -⟩ := s.loadEvent_sameParameters (hi :: lo :: rest)
  refine ⟨(s.loadEvent (hi :: lo :: rest)).withEvents [.step], ?_, ?_⟩
  · rw [step_withEvents_cons, ← State.loadEvent_withEvents]
    rfl
  · rw [← henv]
    exact (step_withEvents_cons _ _ []).trans (stepEvent_loadEvent hpc hw hrun hlen hdecode)

end

/-- Settles O24: just after RESET the LOAD is accepted, and `pc` is where the image begins. -/
theorem firstStepRunsTheImage : Obligations.FirstStepRunsTheImage :=
  fun font v d _ _ _ _ hlen hdecode =>
    step_load_then_step (s := { State.resetWith font with environment := v, draws := d }) rfl rfl rfl hlen hdecode

/-! ## The idle loop (rule R194) -/

/-- Settles O36: the jump takes the advanced `pc` back to where the fetch found it, so that the STEP answers the state
it began with, the load window closed. -/
theorem selfJumpIdles : Obligations.SelfJumpIdles := by
  intro s u nnn hnext hrun hpc hself hdecode
  have htarget : zextAddr nnn = u.pc := BitVec.eq_of_toNat_eq ((toNat_zextAddr nnn).trans hself.symm)
  have hstep : step s = .next u.closeWindow :=
    calc step s = stepEvent u := step_of_nextEvent hnext
      _ = exec (.jp nnn) u.closeWindow.advance :=
        stepEvent_of_decode (u.halted_eq_false_iff.mpr hrun) (u.fetchable_iff.mpr hpc) hdecode
      _ = .next (u.closeWindow.advance.setPc u.pc) := by rw [← htarget]; rfl
      _ = .next u.closeWindow := rfl
  exact ⟨_, hstep, OnlyChanges.refl _ _⟩

end Sys2Proof.Machine
end
